-- ==== Sys2Proof/Word.lean ====
section
/-! DEFINITION. The byte and the 32-bit word of the core and their plainest readings (00_scope.md R8, R13). -/

namespace Sys2Proof

/-- A byte of the code image: 8 bits (R13). -/
abbrev Byte := BitVec 8

/-- A word: 32 bits. Operand-stack entries, cells, operands, ALU results, `pc` and call-stack
entries are all words (R8). -/
abbrev Word := BitVec 32

/-- `s32(w)`: the two's-complement value of a word (R13). -/
abbrev s32 (w : Word) : Int := w.toInt

/-- `u32(w)`: the unsigned value of a word (R13). -/
abbrev u32 (w : Word) : Nat := w.toNat

end Sys2Proof
end

