-- ==== Sys2Proof/Config.lean ====
section
/-! DEFINITION. What an implementation fixes (00_scope.md section 0.4): the sizes the spec states and the four
named parameters it leaves to the build. There is no free value: 93_implementation_defined.md says that
nothing in the source is undefined or unpredictable. -/

namespace Sys2Proof

/-- MEM_CELLS: the number of data-memory cells (R7). -/
def memCells : Nat := 1024

/-- The greatest `N` that LOAD accepts, 2^32 - 1 (R6). -/
def maxCodeLen : Nat := 4294967295

/-- The capacity of a stack: a positive number of entries or UNBOUNDED (R9, R10).
That a finite one is positive is `Capacity.wf`. -/
inductive Capacity where
  | unbounded
  | finite (entries : Nat)
  deriving DecidableEq, Repr

/-- The two values of ARITH_OVERFLOW_MODE and of DIV_OVERFLOW_MODE (R11, R12). -/
inductive OverflowMode where
  | wrap
  | trap
  deriving DecidableEq, Repr

/-- The implementation parameters other than `N` (R9 to R12). A machine carries one value of them
for its whole life: no step, LOAD or RESET changes it. -/
structure Params where
  /-- OSTACK_DEPTH (R9) -/
  ostackDepth : Capacity
  /-- CSTACK_DEPTH (R10) -/
  cstackDepth : Capacity
  /-- ARITH_OVERFLOW_MODE (R11) -/
  arithOverflow : OverflowMode
  /-- DIV_OVERFLOW_MODE (R12) -/
  divOverflow : OverflowMode
  deriving DecidableEq, Repr

/-- The parameters of `State.reset`: the default modes of R11 and R12, and both stacks UNBOUNDED.
R9 and R10 leave the depths OPEN: UNBOUNDED is a DESIGN CHOICE, unsafe (log 3). -/
def defaultParams : Params :=
  { ostackDepth := .unbounded, cstackDepth := .unbounded, arithOverflow := .wrap, divOverflow := .trap }

end Sys2Proof
end

