-- ==== Sys2Proof/Syntax.lean ====
section
/-! DEFINITION. The instructions: one constructor per row of spec/opcode_table.json (30_encoding.md R75, R76). -/

namespace Sys2Proof

/-- The 17 instructions of R75. An operand is the full 32-bit operand word `w` of R72. How an
instruction reads it (`s32` for PUSH, `u32` for the others) is R73 and stands in its meaning. -/
inductive Instr where
  /-- PUSH v (R110) -/
  | push (v : Word)
  /-- POP (R111) -/
  | pop
  /-- DUP (R112) -/
  | dup
  /-- ADD (R121) -/
  | add
  /-- SUB (R122) -/
  | sub
  /-- MUL (R123) -/
  | mul
  /-- DIV (R124) -/
  | div
  /-- CMP (R125) -/
  | cmp
  /-- JMP t (R140) -/
  | jmp (t : Word)
  /-- JZ t (R141) -/
  | jz (t : Word)
  /-- JNZ t (R142) -/
  | jnz (t : Word)
  /-- STORE i (R150) -/
  | store (i : Word)
  /-- LOAD i (R151) -/
  | load (i : Word)
  /-- CALL t (R160) -/
  | call (t : Word)
  /-- RET (R161) -/
  | ret
  /-- PRINT (R170) -/
  | print
  /-- HALT (R171) -/
  | halt
  deriving DecidableEq, Repr

end Sys2Proof
end

