-- ==== Sys2Proof/WellFormed.lean ====
section
/-! DEFINITION. Well-formedness checks: of the parameters (R9, R10), of an image's length (R6), of an instruction
(R78: none to make) and of the bytes of one instruction (R70, R74, R75). -/

namespace Sys2Proof

/-- A finite capacity is a positive integer (R9, R10). -/
def Capacity.wf : Capacity → Bool
  | .unbounded => true
  | .finite n => decide (0 < n)

/-- Both stack capacities are as R9 and R10 require. -/
def Params.wf (p : Params) : Bool := p.ostackDepth.wf && p.cstackDepth.wf

/-- `0 <= N <= 2^32 - 1` (R6). -/
def imageLenWf (n : Nat) : Bool := decide (n ≤ maxCodeLen)

/-- The opcode bytes that take a 4-byte operand, format F5 (R74, R75). -/
def isF5Byte (op : Byte) : Bool :=
  [0x01, 0x20, 0x21, 0x22, 0x30, 0x31, 0x40].contains op.toNat

/-- The opcode bytes that stand alone, format F1 (R74, R75). -/
def isF1Byte (op : Byte) : Bool :=
  [0x02, 0x03, 0x10, 0x11, 0x12, 0x13, 0x14, 0x41, 0x50, 0xFF].contains op.toNat

/-- The bytes of exactly one instruction: a legal opcode byte with the length it implies
(R70, R74). -/
def instrBytesWf : List Byte → Bool
  | [] => false
  | op :: operand => (isF1Byte op && operand.length == 0) || (isF5Byte op && operand.length == 4)

/-- Every instruction is well formed: every 32-bit operand word is accepted at decode, and its range
is checked only by the instruction that uses it (R78). An operand of another width is no term. -/
def Instr.wf : Instr → Bool
  | .push _ => true
  | .pop => true
  | .dup => true
  | .add => true
  | .sub => true
  | .mul => true
  | .div => true
  | .cmp => true
  | .jmp _ => true
  | .jz _ => true
  | .jnz _ => true
  | .store _ => true
  | .load _ => true
  | .call _ => true
  | .ret => true
  | .print => true
  | .halt => true

end Sys2Proof
end

