-- ==== Sys2Proof/Decode.lean ====
section
/-! DEFINITION. The decoder and the encoder (30_encoding.md R70 to R83), and the host's `decodeTableWord`. -/

namespace Sys2Proof

/-- The closed enumeration of opcodes (R76). -/
inductive Opcode where
  | push | pop | dup
  | add | sub | mul | div | cmp
  | jmp | jz | jnz
  | store | load
  | call | ret
  | print | halt
  deriving DecidableEq, Repr

/-- Why bytes are not an instruction. -/
inductive DecodeError where
  /-- There is no byte at all. R81: never met by an active core. -/
  | noByte
  /-- The opcode byte is one of the 239 illegal values (R77, R82). -/
  | unknownOpcode (op : Byte)
  /-- Fewer than 4 operand bytes follow an F5 opcode (R83). -/
  | unexpectedEnd
  deriving DecidableEq, Repr

/-- The opcode map of R75: byte and opcode. -/
def opcodeTable : List (Nat × Opcode) :=
  [ (0x01, .push), (0x02, .pop), (0x03, .dup),
    (0x10, .add), (0x11, .sub), (0x12, .mul), (0x13, .div), (0x14, .cmp),
    (0x20, .jmp), (0x21, .jz), (0x22, .jnz),
    (0x30, .store), (0x31, .load),
    (0x40, .call), (0x41, .ret),
    (0x50, .print), (0xFF, .halt) ]

/-- Decode compares all 8 bits of the opcode byte with the 17 values of R75 (R75, R82). -/
def decodeOpcode (op : Byte) : Option Opcode :=
  (opcodeTable.find? (fun row => row.1 == op.toNat)).map Prod.snd

/-- `CodeRead(p, 4)`: four bytes as one big-endian word, the byte at the lowest offset in bits 31:24
(R15, R52, R72). -/
def operandWord (b3 b2 b1 b0 : Byte) : Word := (b3 ++ b2) ++ (b1 ++ b0)

/-- Operand fetch: the operand word of the bytes after an F5 opcode, or an unexpected end where
fewer than 4 remain (R83). -/
def fetchOperand : List Byte → Except DecodeError Word
  | b3 :: b2 :: b1 :: b0 :: _ => .ok (operandWord b3 b2 b1 b0)
  | _ => .error .unexpectedEnd

/-- An instruction whose operand is fetched from the bytes after its opcode. -/
def withOperand (mk : Word → Instr) (rest : List Byte) : Except DecodeError Instr :=
  match fetchOperand rest with
  | .ok w => .ok (mk w)
  | .error e => .error e

/-- The instruction of an opcode and the bytes that follow it: F1 opcodes stand alone, F5 opcodes
take a 4-byte operand (R70, R71, R74, R75). -/
def decodeInstr (o : Opcode) (rest : List Byte) : Except DecodeError Instr :=
  match o with
  | .push => withOperand .push rest
  | .pop => .ok .pop
  | .dup => .ok .dup
  | .add => .ok .add
  | .sub => .ok .sub
  | .mul => .ok .mul
  | .div => .ok .div
  | .cmp => .ok .cmp
  | .jmp => withOperand .jmp rest
  | .jz => withOperand .jz rest
  | .jnz => withOperand .jnz rest
  | .store => withOperand .store rest
  | .load => withOperand .load rest
  | .call => withOperand .call rest
  | .ret => .ok .ret
  | .print => .ok .print
  | .halt => .ok .halt

/-- The decoder, total on any bytes: the instruction the bytes begin with (R80 to R83). The opcode is
decoded before any operand byte is read (R82). How many bytes it takes is `Instr.size`. -/
def decode : List Byte → Except DecodeError Instr
  | [] => .error .noByte
  | op :: rest =>
    match decodeOpcode op with
    | none => .error (.unknownOpcode op)
    | some o => decodeInstr o rest

/-- The length of an instruction in bytes, 1 or 5 (R70, R74). -/
def Instr.size : Instr → Nat
  | .push _ => 5
  | .pop => 1
  | .dup => 1
  | .add => 1
  | .sub => 1
  | .mul => 1
  | .div => 1
  | .cmp => 1
  | .jmp _ => 5
  | .jz _ => 5
  | .jnz _ => 5
  | .store _ => 5
  | .load _ => 5
  | .call _ => 5
  | .ret => 1
  | .print => 1
  | .halt => 1

/-- The four bytes of an operand word, most significant first (R71). -/
def wordBytes (w : Word) : List Byte :=
  [w.extractLsb' 24 8, w.extractLsb' 16 8, w.extractLsb' 8 8, w.extractLsb' 0 8]

/-- The encoder: the bytes of an instruction, the byte at the opcode address first (R71, R75). -/
def encode : Instr → List Byte
  | .push v => 0x01 :: wordBytes v
  | .pop => [0x02]
  | .dup => [0x03]
  | .add => [0x10]
  | .sub => [0x11]
  | .mul => [0x12]
  | .div => [0x13]
  | .cmp => [0x14]
  | .jmp t => 0x20 :: wordBytes t
  | .jz t => 0x21 :: wordBytes t
  | .jnz t => 0x22 :: wordBytes t
  | .store i => 0x30 :: wordBytes i
  | .load i => 0x31 :: wordBytes i
  | .call t => 0x40 :: wordBytes t
  | .ret => [0x41]
  | .print => [0x50]
  | .halt => [0xFF]

/-- The low `n` bytes of a number, most significant first. -/
def bytesBE : Nat → Nat → List Byte
  | 0, _ => []
  | n + 1, w => BitVec.ofNat 8 (w / 256 ^ n) :: bytesBE n w

/-- The bytes of an instruction whose bits are `w`, numbered as spec/opcode_table.json numbers them.
R71: an F5 instruction is one big-endian 40-bit number, the opcode in bits 39:32, and an F1
instruction is its 8-bit opcode. So the byte at the opcode address is the most significant of the
`nbits` bits, and the bytes after them, up to the longest instruction, are zero (log 9). -/
def tableBytes (nbits w : Nat) : List Byte :=
  bytesBE ((nbits + 7) / 8) w ++ List.replicate (5 - (nbits + 7) / 8) 0

/-- The instruction the decoder reads from an instruction whose bits are `w` (log 9). -/
def decodeTableWord (nbits w : Nat) : Option Instr :=
  match decode (tableBytes nbits w) with
  | .ok i => some i
  | .error _ => none

end Sys2Proof
end

