-- ==== Sys2Proof/Machine/State.lean ====
section
/-! DEFINITION. The state of one core (10_state.md R20), the ten trap causes (60_exceptions.md R189), the reasons a
command stops, and the state after reset (R35). -/

namespace Sys2Proof.Machine

/-- The data memory: (cell index, word) pairs, indices strictly rising, below 1024, and no entry
holding 0, which is what an unlisted cell reads as (R30, R35, R51; log 5). The form is
`Memory.wf`; the reads and writes are in Machine/Ops.lean. -/
abbrev Memory := List (Nat × Word)

/-- The ten trap causes (R181 to R191). Their codes are `TrapCause.code`. -/
inductive TrapCause where
  | stackUnderflow
  | divByZero
  | memOutOfBounds
  | invalidTarget
  | unexpectedEnd
  | retEmpty
  | unknownOpcode
  | arithOverflow
  | ostackOverflow
  | cstackOverflow
  deriving DecidableEq, Repr

/-- The architectural state of R20. `N` is the length of `code`. `out` is the history of the
print port (R42) and `params` the build's parameters (R9 to R12); they are the model's own fields
(log 2, log 8). -/
structure State where
  /-- the implementation parameters; never written (R9 to R12, log 2) -/
  params : Params
  /-- the bytecode image (R22) -/
  code : List Byte
  /-- the program counter, an unsigned byte offset (R23) -/
  pc : Word
  /-- the operand stack, top first (R25, log 7) -/
  ostack : List Word
  /-- the call stack, top first (R26, log 7) -/
  cstack : List Word
  /-- the data memory (R30) -/
  mem : Memory
  /-- the `running` flag (R28) -/
  running : Bool
  /-- the `trap_cause` register, 8 bits (R27) -/
  trapCause : BitVec 8
  /-- the print port's events so far, oldest first (R42, log 8) -/
  out : List Word
  deriving DecidableEq, Repr

/-- Why a command to the core ends in a fault. No step of the core does: a trap is a next state
(R192, log 1). -/
inductive Fault where
  /-- Raised by the RUN command alone (`runCommand`), for a run whose final state is TRAPPED: R226 has
  it treated as a fault and not as a normal end. The code is that of `trap_cause`. Safe. -/
  | trapped (cause : BitVec 8)
  deriving DecidableEq, Repr

/-- Why a command to the core is refused. -/
inductive Refusal where
  /-- Raised by `exec` for an instruction that has no meaning yet. No arm does so. Safe. -/
  | notModelled (mnemonic : String)
  /-- Raised by LOAD (`State.load`) for an image of more than 2^32 - 1 bytes (R6, R210, I12). Safe. -/
  | imageTooLong (length : Nat)
  /-- Raised by the RUN command (`runCommand`) when its fuel is used up before the run ends, which is
  not an end (R226, D19). Safe. -/
  | outOfFuel
  deriving DecidableEq, Repr

/-- The state right after reset, before any image is loaded: every element at its value of R35, the
image empty (log 4), the print port without events (log 8), the parameters as `defaultParams`
(log 3). -/
def State.reset : State :=
  { params := defaultParams
    code := []
    pc := 0
    ostack := []
    cstack := []
    mem := []
    running := true
    trapCause := 0
    out := [] }

end Sys2Proof.Machine
end

