-- ==== Sys2Proof/Machine/Ops.lean ====
section
/-! DEFINITION. The named operations over the state: the primitives of 00_scope.md R15, trap entry (60_exceptions.md
R192), LOAD and RESET (70_reset_and_hazards.md R210, R211), and the fetch of an instruction. -/

namespace Sys2Proof.Machine

/-! ### Data memory (R30, R50, R51) -/

/-- `MemRead(i, 1)`: the value of cell `i`; a cell that is not listed holds 0 (R30, R151). -/
def Memory.read : Memory → Nat → Word
  | [], _ => 0
  | (j, v) :: rest, i => if j = i then v else Memory.read rest i

/-- A cell's entry put before the entries of later cells; a zero takes no entry. -/
def Memory.consEntry (i : Nat) (v : Word) (rest : Memory) : Memory :=
  if v = 0 then rest else (i, v) :: rest

/-- `MemWrite(i, 1, v)`: cell `i` becomes `v`, and the form stays canonical (R150). -/
def Memory.write : Memory → Nat → Word → Memory
  | [], i, v => Memory.consEntry i v []
  | (j, u) :: rest, i, v =>
    if i < j then Memory.consEntry i v ((j, u) :: rest)
    else if i = j then Memory.consEntry i v rest
    else (j, u) :: Memory.write rest i v

/-- The canonical form from cell `lo` on: indices rising and at least `lo`, each below 1024, no entry
zero. -/
def Memory.wfFrom : Nat → Memory → Bool
  | _, [] => true
  | lo, (j, v) :: rest =>
    decide (lo ≤ j) && decide (j < memCells) && (v != 0) && Memory.wfFrom (j + 1) rest

/-- The canonical form of the data memory (log 5). -/
def Memory.wf (m : Memory) : Bool := Memory.wfFrom 0 m

/-! ### Registers and status (R23, R27, R28, R29) -/

/-- `N`, the length of the image (R6, R22). -/
def State.codeLen (s : State) : Nat := s.code.length

/-- The core is active: `running = true` and `pc < N` (R29). -/
def State.active (s : State) : Bool := s.running && decide (u32 s.pc < s.codeLen)

/-- `pc <- t` (R15). -/
def State.jump (t : Word) (s : State) : State := { s with pc := t }

/-- `pc` moved past the `n` bytes of the instruction: the post-operand pc (R23, R80). -/
def State.advance (n : Word) (s : State) : State := { s with pc := s.pc + n }

/-- `running <- false` (R28, R171). -/
def State.stop (s : State) : State := { s with running := false }

/-! ### The operand stack (R15, R25) -/

/-- `push(v)` (R15). The check for room is `requireRoom` of Machine/Operands.lean. -/
def State.push (v : Word) (s : State) : State := { s with ostack := v :: s.ostack }

/-- `pop()` behind its check: the top entry and the state without it, or STACK_UNDERFLOW (R181). -/
def State.pop (s : State) : Except TrapCause (Word × State) :=
  match s.ostack with
  | x :: rest => .ok (x, { s with ostack := rest })
  | [] => .error .stackUnderflow

/-- `top()` behind its check (R112). -/
def State.top (s : State) : Except TrapCause Word :=
  match s.ostack with
  | x :: _ => .ok x
  | [] => .error .stackUnderflow

/-- The prologue of the two-operand instructions: `b` is the top and `a` the entry beneath it; both
are popped, and fewer than two entries is STACK_UNDERFLOW (R16, R120). The answer is `a`, `b` and the
state without them. -/
def State.popPair (s : State) : Except TrapCause (Word × Word × State) :=
  match s.ostack with
  | b :: a :: rest => .ok (a, b, { s with ostack := rest })
  | _ => .error .stackUnderflow

/-! ### The call stack (R15, R26) -/

/-- `cpush(a)` (R15). The check for room is `requireCallRoom` of Machine/Operands.lean. -/
def State.cpush (a : Word) (s : State) : State := { s with cstack := a :: s.cstack }

/-- `cpop()` behind its check: the top entry and the state without it, or RET_EMPTY (R161, R186). -/
def State.cpop (s : State) : Except TrapCause (Word × State) :=
  match s.cstack with
  | a :: rest => .ok (a, { s with cstack := rest })
  | [] => .error .retEmpty

/-! ### Data memory and print port of a state -/

/-- The value of cell `i` (R151). -/
def State.readCell (i : Nat) (s : State) : Word := Memory.read s.mem i

/-- Cell `i` becomes `v` (R150). -/
def State.writeCell (i : Nat) (v : Word) (s : State) : State :=
  { s with mem := Memory.write s.mem i v }

/-- `emit(v)`: one event on the print port (R42, R170). -/
def State.emit (v : Word) (s : State) : State := { s with out := s.out ++ [v] }

/-! ### Trap entry (R192) -/

/-- The code of a trap cause (R181 to R191, table of R189). -/
def TrapCause.code : TrapCause → BitVec 8
  | .stackUnderflow => 1
  | .divByZero => 2
  | .memOutOfBounds => 3
  | .invalidTarget => 4
  | .unexpectedEnd => 5
  | .retEmpty => 6
  | .unknownOpcode => 7
  | .arithOverflow => 8
  | .ostackOverflow => 9
  | .cstackOverflow => 10

/-- Trap entry: `running <- false` and `trap_cause <- c`; every other element keeps its value from
before the step (R192, R193). There is no trap return (R196): only `State.load` and
`State.resetCommand` make the core active again. -/
def State.takeTrap (c : TrapCause) (s : State) : State :=
  { s with running := false, trapCause := c.code }

/-- The end of a step of `s`: the writes of a rule that ran to its end take effect together (R84);
a rule that raised takes the trap, and none of its writes take effect (R193). -/
def State.commit (s : State) (r : Except TrapCause State) : Host.Outcome State Fault Refusal :=
  match r with
  | .ok s' => .next s'
  | .error c => .next (s.takeTrap c)

/-! ### LOAD and RESET (R210, R211) -/

/-- RESET: `code` and `N` stay, every other element takes its value of R35. The print port's history
belongs to the host and stays (R42, R211); so do the parameters. -/
def State.resetCommand (s : State) : State :=
  { s with pc := 0, ostack := [], cstack := [], mem := [], running := true, trapCause := 0 }

/-- LOAD(image): `code <- image`, and every other element takes its value of R35; any bytes are
accepted (R210). An image of more than 2^32 - 1 bytes is refused (R6, I12). -/
def State.load (image : List Byte) (s : State) : Host.Outcome State Fault Refusal :=
  if imageLenWf image.length then
    .next ({ s with code := image }).resetCommand
  else
    .refused (.imageTooLong image.length)

/-! ### Fetch (R80 to R83) -/

/-- The instruction at `pc`: opcode fetch, decode and operand fetch, in that order. -/
def State.fetch (s : State) : Except DecodeError Instr := decode (s.code.drop (u32 s.pc))

/-- The step of an active core whose fetch gave no instruction: the traps of R82 and R83. Without a
byte at `pc` the core is not active and has no step (R81, R86); `step` never comes here so. -/
def State.fetchFailed (e : DecodeError) (s : State) : Host.Outcome State Fault Refusal :=
  match e with
  | .noByte => .next s
  | .unknownOpcode _ => .next (s.takeTrap .unknownOpcode)
  | .unexpectedEnd => .next (s.takeTrap .unexpectedEnd)

/-- A code image with `bytes` laid at `offset`; offsets below it that the image does not reach are
filled with zeros. -/
def placeBytes (code : List Byte) (offset : Nat) (bytes : List Byte) : List Byte :=
  code.take offset ++ List.replicate (offset - code.length) 0 ++ bytes ++
    code.drop (offset + bytes.length)

end Sys2Proof.Machine
end

