-- ==== Sys2Proof/Machine/Flags.lean ====
section
/-! DEFINITION. The result and range computations of the ALU (41_alu.md R120 to R125). The core has no condition
codes (R31): what other machines keep in flags, this one decides inside the instruction or pushes. -/

namespace Sys2Proof.Machine

/-- The exact result is in `i32` (R13, R120). -/
def inI32 (r : Int) : Bool := decide (-2147483648 ≤ r) && decide (r ≤ 2147483647)

/-- `bits32(x)`: the pattern of `x mod 2^32`; read as `s32` it is `wrap32(x)` (R13). -/
def bits32 (x : Int) : Word := BitVec.ofInt 32 x

/-- The pushed result of ADD, SUB and MUL from the exact result `r`: ARITH_OVERFLOW in TRAP mode when
`r` is outside `i32`, else `wrap32(r)` (R120). -/
def arithResult (mode : OverflowMode) (r : Int) : Except TrapCause Word :=
  if !inI32 r && mode == .trap then .error .arithOverflow else .ok (bits32 r)

/-- `trunc_div(a, b)`: the quotient rounded toward zero (R14). -/
def truncDiv (a b : Int) : Int := Int.tdiv a b

/-- The pushed result of DIV: the divisor is checked first, then the one quotient that is not
representable, which DIV_OVERFLOW_MODE decides (R124). -/
def divResult (mode : OverflowMode) (a b : Word) : Except TrapCause Word :=
  if s32 b = 0 then .error .divByZero
  else if s32 a = -2147483648 ∧ s32 b = -1 then
    match mode with
    | .trap => .error .arithOverflow
    | .wrap => .ok (bits32 (-2147483648))
  else .ok (bits32 (truncDiv (s32 a) (s32 b)))

/-- The pushed result of CMP: the exact signed comparison of `a` with `b` (R125). -/
def cmpResult (a b : Word) : Word :=
  if s32 a < s32 b then bits32 (-1) else if s32 a = s32 b then bits32 0 else bits32 1

end Sys2Proof.Machine
end

