-- ==== Sys2Proof/Machine/Operands.lean ====
section
/-! DEFINITION. The operand forms and the checks made on them: targets (42_branch.md R143), cell indices
(43_memory_ops.md R152), and the capacity of the destination stack (60_exceptions.md R190, R191). -/

namespace Sys2Proof.Machine

/-- `depth = capacity`: the stack is full. An UNBOUNDED stack never is (R9, R10, R110; log 17). -/
def capacityFull (c : Capacity) (depth : Nat) : Bool :=
  match c with
  | .unbounded => false
  | .finite n => depth == n

/-- The operand stack is full: `depth() = OSTACK_DEPTH` (R110, R190). -/
def State.ostackFull (s : State) : Bool := capacityFull s.params.ostackDepth s.ostack.length

/-- The call stack is full: `cdepth() = CSTACK_DEPTH` (R160, R191). -/
def State.cstackFull (s : State) : Bool := capacityFull s.params.cstackDepth s.cstack.length

/-- Target form: the operand `u32(w)` is a byte offset below `N`, else INVALID_TARGET (R143, R184). -/
def State.requireTarget (t : Word) (s : State) : Except TrapCause Unit :=
  if s.codeLen ≤ u32 t then .error .invalidTarget else .ok ()

/-- Index form: the operand `u32(w)` is a cell below 1024, else MEM_OUT_OF_BOUNDS (R152, R183). -/
def requireCell (i : Word) : Except TrapCause Unit :=
  if memCells ≤ u32 i then .error .memOutOfBounds else .ok ()

/-- A push needs room on the operand stack, else OSTACK_OVERFLOW (R190). -/
def State.requireRoom (s : State) : Except TrapCause Unit :=
  if s.ostackFull then .error .ostackOverflow else .ok ()

/-- CALL needs room on the call stack, else CSTACK_OVERFLOW (R191). -/
def State.requireCallRoom (s : State) : Except TrapCause Unit :=
  if s.cstackFull then .error .cstackOverflow else .ok ()

end Sys2Proof.Machine
end

