-- ==== Sys2Proof/Machine/Alu.lean ====
section
/-! DEFINITION. The meanings of ADD, SUB, MUL, DIV and CMP (41_alu.md R121 to R125). -/

namespace Sys2Proof.Machine

/-- The shared course of the five ALU instructions: pop `b`, then `a`, and push the result of
`a OP b`, which may raise instead (R16, R120). -/
def State.binary (op : Word → Word → Except TrapCause Word) (s : State) : Except TrapCause State := do
  let (a, b, s1) ← s.popPair
  let r ← op a b
  .ok (s1.push r)

/-- ADD: push `a + b` (R121). -/
def execAdd (s : State) : Host.Outcome State Fault Refusal :=
  s.commit ((s.advance 1).binary fun a b => arithResult s.params.arithOverflow (s32 a + s32 b))

/-- SUB: push `a - b` (R122). -/
def execSub (s : State) : Host.Outcome State Fault Refusal :=
  s.commit ((s.advance 1).binary fun a b => arithResult s.params.arithOverflow (s32 a - s32 b))

/-- MUL: push `a * b` (R123). -/
def execMul (s : State) : Host.Outcome State Fault Refusal :=
  s.commit ((s.advance 1).binary fun a b => arithResult s.params.arithOverflow (s32 a * s32 b))

/-- DIV: push `a / b`, truncated toward zero (R124). -/
def execDiv (s : State) : Host.Outcome State Fault Refusal :=
  s.commit ((s.advance 1).binary fun a b => divResult s.params.divOverflow a b)

/-- CMP: push the sign of `a - b`, computed exactly (R125). -/
def execCmp (s : State) : Host.Outcome State Fault Refusal :=
  s.commit ((s.advance 1).binary fun a b => .ok (cmpResult a b))

end Sys2Proof.Machine
end

