-- ==== Sys2Proof/Machine/Branch.lean ====
section
/-! DEFINITION. The meanings of JMP, JZ and JNZ (42_branch.md R140 to R142). -/

namespace Sys2Proof.Machine

/-- The shared course of JZ and JNZ: check the target whether taken or not, pop the value, and jump
where `taken` holds of it, else stay at the post-operand pc (R141, R142; log 15). -/
def State.branchIf (taken : Word → Bool) (t : Word) (s : State) : Except TrapCause State := do
  s.requireTarget t
  let (x, s1) ← s.pop
  .ok (if taken x then s1.jump t else s1)

/-- JMP: jump unconditionally (R140). -/
def execJmp (t : Word) (s : State) : Host.Outcome State Fault Refusal :=
  s.commit do
    let s1 := s.advance 5
    s1.requireTarget t
    .ok (s1.jump t)

/-- JZ: pop a value and jump if it is zero (R141). -/
def execJz (t : Word) (s : State) : Host.Outcome State Fault Refusal :=
  s.commit ((s.advance 5).branchIf (fun x => x == 0) t)

/-- JNZ: pop a value and jump if it is not zero (R142). -/
def execJnz (t : Word) (s : State) : Host.Outcome State Fault Refusal :=
  s.commit ((s.advance 5).branchIf (fun x => x != 0) t)

end Sys2Proof.Machine
end

