-- ==== Sys2Proof/Machine/Call.lean ====
section
/-! DEFINITION. The meanings of CALL and RET (44_call.md R160, R161). -/

namespace Sys2Proof.Machine

/-- CALL: push the post-operand pc on the call stack and jump (R160). -/
def execCall (t : Word) (s : State) : Host.Outcome State Fault Refusal :=
  s.commit do
    let s1 := s.advance 5
    s1.requireTarget t
    s1.requireCallRoom
    .ok ((s1.cpush s1.pc).jump t)

/-- RET: pop the return address into `pc`; the address is not range-checked (R161; log 16). -/
def execRet (s : State) : Host.Outcome State Fault Refusal :=
  s.commit do
    let (a, s1) ← (s.advance 1).cpop
    .ok (s1.jump a)

end Sys2Proof.Machine
end

