-- ==== Sys2Proof/Machine/DataMemory.lean ====
section
/-! DEFINITION. The meanings of STORE and LOAD (43_memory_ops.md R150, R151). -/

namespace Sys2Proof.Machine

/-- STORE: pop a value and write it to cell `i` (R150). -/
def execStore (i : Word) (s : State) : Host.Outcome State Fault Refusal :=
  s.commit do
    requireCell i
    let (x, s1) ← (s.advance 5).pop
    .ok (s1.writeCell (u32 i) x)

/-- LOAD: push the value of cell `i` (R151). -/
def execLoad (i : Word) (s : State) : Host.Outcome State Fault Refusal :=
  s.commit do
    let s1 := s.advance 5
    requireCell i
    s1.requireRoom
    .ok (s1.push (s1.readCell (u32 i)))

end Sys2Proof.Machine
end

