-- ==== Sys2Proof/Machine/Stack.lean ====
section
/-! DEFINITION. The meanings of PUSH, POP and DUP (40_stack.md R110 to R112). A meaning is given the state before
the step, with `pc` at the opcode address; `State.advance` gives `pc` the post-operand value (R80). -/

namespace Sys2Proof.Machine

/-- PUSH: push the operand (R110). -/
def execPush (v : Word) (s : State) : Host.Outcome State Fault Refusal :=
  s.commit do
    let s1 := s.advance 5
    s1.requireRoom
    .ok (s1.push v)

/-- POP: discard the top entry (R111). -/
def execPop (s : State) : Host.Outcome State Fault Refusal :=
  s.commit do
    let (_, s1) ← (s.advance 1).pop
    .ok s1

/-- DUP: push a copy of the top entry (R112). -/
def execDup (s : State) : Host.Outcome State Fault Refusal :=
  s.commit do
    let s1 := s.advance 1
    let x ← s1.top
    s1.requireRoom
    .ok (s1.push x)

end Sys2Proof.Machine
end

