-- ==== Sys2Proof/Machine/System.lean ====
section
/-! DEFINITION. The meanings of PRINT and HALT (45_system.md R170, R171). -/

namespace Sys2Proof.Machine

/-- PRINT: pop a value and send it to the host (R170). -/
def execPrint (s : State) : Host.Outcome State Fault Refusal :=
  s.commit do
    let (x, s1) ← (s.advance 1).pop
    .ok (s1.emit x)

/-- HALT: stop execution; `pc` is past it and `trap_cause` stays (R171). -/
def execHalt (s : State) : Host.Outcome State Fault Refusal :=
  s.commit (.ok (s.advance 1).stop)

end Sys2Proof.Machine
end

