-- ==== Sys2Proof/Machine/Step.lean ====
section
/-! DEFINITION. One step of the core, which is also the STEP command (30_encoding.md R80, R86), and the host's
`withFetchWord`. -/

namespace Sys2Proof.Machine

/-- One step. An active core fetches the instruction at `pc` and executes it, or takes the trap of a
failed fetch (R80 to R84). A core that is not active has no step and keeps its state (R86). -/
def step (s : State) : Host.Outcome State Fault Refusal :=
  if s.active then
    match s.fetch with
    | .ok i => exec i s
    | .error e => s.fetchFailed e
  else .next s

/-- `s` with the instruction whose bits are `w` stored at `pc` and the core running, so that the next
step fetches and runs it. It stands for the host's LOAD of such an image (R210; log 4, log 9). -/
def State.withFetchWord (s : State) (nbits w : Nat) : State :=
  { s with code := placeBytes s.code (u32 s.pc) (tableBytes nbits w), running := true }

end Sys2Proof.Machine
end

