-- ==== Sys2Proof/Machine/Commands.lean ====
section
/-! DEFINITION. What the host sees of the core between steps: `result` and the end kinds (10_state.md R41, R43),
and the RUN command (70_reset_and_hazards.md R225, R226). LOAD and RESET stand in Machine/Ops.lean, STEP is
`step`. -/

namespace Sys2Proof.Machine

/-- `result`: the top of the operand stack, and 0 when it is empty (R41). -/
def State.result (s : State) : Word :=
  match s.ostack with
  | x :: _ => x
  | [] => 0

/-- How a run ended (R43, R226). -/
inductive EndKind where
  /-- stopped by HALT: a normal end -/
  | halted
  /-- ran off the end of `code`: a normal end -/
  | ended
  /-- stopped by a trap with that cause: a fault -/
  | trapped (cause : BitVec 8)
  deriving DecidableEq, Repr

/-- The end kind of a state, none for an active core (R43). -/
def State.endKind (s : State) : Option EndKind :=
  if s.active then none
  else if s.running then some .ended
  else if s.trapCause = 0 then some .halted
  else some (.trapped s.trapCause)

/-- `k` STEP commands (R40, R80), stopping at the first answer that is no next state; there is none. -/
def stepN : Nat → State → Host.Outcome State Fault Refusal
  | 0, s => .next s
  | k + 1, s =>
    match step s with
    | .next s' => stepN k s'
    | .fault r => .fault r
    | .refused r => .refused r

/-- RUN: steps until the core is not active (R225), under fuel (D19). HALTED and ENDED are normal
ends and answer the final state; TRAPPED is a fault (R226); fuel that runs out is no end. -/
def runCommand : Nat → State → Host.Outcome State Fault Refusal
  | fuel, s =>
    match s.endKind with
    | some .halted => .next s
    | some .ended => .next s
    | some (.trapped c) => .fault (.trapped c)
    | none =>
      match fuel with
      | 0 => .refused .outOfFuel
      | k + 1 =>
        match step s with
        | .next s' => runCommand k s'
        | .fault r => .fault r
        | .refused r => .refused r

end Sys2Proof.Machine
end

