-- ==== Sys2Proof/Safety.lean ====
section
/-! DEFINITION. The invariants between steps (10_state.md R34) and what counts as a safe run
(70_reset_and_hazards.md R226). -/

namespace Sys2Proof.Machine

/-- `depth <= capacity` (R25, R26, R34). -/
def capacityFits (c : Capacity) (depth : Nat) : Prop :=
  match c with
  | .unbounded => True
  | .finite n => depth ≤ n

/-- The invariants of R34 that hold between any two steps, with the bound of R6 on `N`, the range of
`trap_cause` (R27) and the canonical form of the memory (log 5). -/
structure State.Inv (s : State) : Prop where
  codeLen_le : s.codeLen ≤ maxCodeLen
  pc_le : u32 s.pc ≤ s.codeLen
  cstack_le : ∀ e ∈ s.cstack, u32 e ≤ s.codeLen
  ostack_fits : capacityFits s.params.ostackDepth s.ostack.length
  cstack_fits : capacityFits s.params.cstackDepth s.cstack.length
  running_no_trap : s.running = true → s.trapCause = 0
  trapCause_le : s.trapCause.toNat ≤ 10
  mem_wf : Memory.wf s.mem = true

/-- `t` is the state after `k` steps of `s`. -/
def StepsTo (s : State) (k : Nat) (t : State) : Prop := stepN k s = .next t

/-- A safe run: no state it reaches is TRAPPED (R222, R226). -/
def SafeRun (s : State) : Prop :=
  ∀ k t, StepsTo s k t → ∀ c, t.endKind ≠ some (.trapped c)

end Sys2Proof.Machine

namespace Sys2Proof.Machine

/-! ### Terms of the claims -/

/-- `s` after trap entry with the cause code `c`: only `running` and `trap_cause` change (R192, R193).
Written out here, apart from the model's own `State.takeTrap`. -/
def trapState (c : BitVec 8) (s : State) : State := { s with running := false, trapCause := c }

/-- The one-byte instruction with opcode byte `op` is `i`: an active core with that byte at `pc`
executes `i` (R71, R75, R80). -/
def RunsF1 (op : Byte) (i : Instr) : Prop :=
  ∀ s : State, s.active = true → s.code[u32 s.pc]? = some op → step s = exec i s

/-- The five-byte instruction with opcode byte `op` is `mk w`, `w` the big-endian word of the four bytes
after the opcode; with fewer than four left the step traps with UNEXPECTED_END, cause 5
(R71, R72, R75, R80, R83). -/
def RunsF5 (op : Byte) (mk : Word → Instr) : Prop :=
  ∀ s : State, s.active = true → s.code[u32 s.pc]? = some op →
    (s.codeLen < u32 s.pc + 5 → step s = .next (trapState 5 s)) ∧
    ∀ b3 b2 b1 b0 : Byte,
      s.code[u32 s.pc + 1]? = some b3 → s.code[u32 s.pc + 2]? = some b2 →
      s.code[u32 s.pc + 3]? = some b1 → s.code[u32 s.pc + 4]? = some b0 →
      ∀ w : Word,
        w.toNat = b3.toNat * 16777216 + b2.toNat * 65536 + b1.toNat * 256 + b0.toNat →
        step s = exec (mk w) s

/-- The rule of R120 for an instruction that pushes the exact result `f a b` of two signed words: the
result itself where it is in `i32`; else, in WRAP mode, the pattern of the result mod 2^32, and in
TRAP mode the trap ARITH_OVERFLOW, cause 8. Fewer than two entries is STACK_UNDERFLOW, cause 1. -/
def PushesExactResult (i : Instr) (f : Int → Int → Int) : Prop :=
  ∀ s : State,
    (s.ostack.length < 2 → exec i s = .next (trapState 1 s)) ∧
    ∀ (b a : Word) (rest : List Word), s.ostack = b :: a :: rest →
      (-2147483648 ≤ f a.toInt b.toInt ∧ f a.toInt b.toInt ≤ 2147483647 →
        ∃ r : Word, r.toInt = f a.toInt b.toInt ∧
          exec i s = .next { s with pc := s.pc + 1, ostack := r :: rest }) ∧
      (f a.toInt b.toInt < -2147483648 ∨ 2147483647 < f a.toInt b.toInt →
        (s.params.arithOverflow = .wrap →
          ∃ r : Word, (r.toNat : Int) = f a.toInt b.toInt % 4294967296 ∧
            exec i s = .next { s with pc := s.pc + 1, ostack := r :: rest }) ∧
        (s.params.arithOverflow = .trap → exec i s = .next (trapState 8 s)))

/-- How many operand-stack entries an instruction needs (R181). -/
def entriesNeeded : Instr → Nat
  | .pop | .dup | .jz _ | .jnz _ | .store _ | .print => 1
  | .add | .sub | .mul | .div | .cmp => 2
  | .push _ | .jmp _ | .load _ | .call _ | .ret | .halt => 0

/-- How many operand-stack entries an instruction leaves in place of those it needs. -/
def entriesLeft : Instr → Nat
  | .push _ | .load _ | .add | .sub | .mul | .div | .cmp => 1
  | .dup => 2
  | .pop | .jz _ | .jnz _ | .store _ | .print | .jmp _ | .call _ | .ret | .halt => 0

/-- The operand of a jump, call, STORE or LOAD is in range (R143, R152). -/
def operandInRange (i : Instr) (s : State) : Prop :=
  match i with
  | .jmp t | .jz t | .jnz t | .call t => t.toNat < s.codeLen
  | .store k | .load k => k.toNat < 1024
  | .push _ | .pop | .dup | .add | .sub | .mul | .div | .cmp | .ret | .print | .halt => True

/-- `pc` after an instruction that does not trap, at opcode address `s.pc` (table of R24). -/
def pcAfter (i : Instr) (s : State) : Word :=
  match i with
  | .pop | .dup | .add | .sub | .mul | .div | .cmp | .print | .halt => s.pc + 1
  | .push _ | .store _ | .load _ => s.pc + 5
  | .jmp t | .call t => t
  | .jz t => if s.ostack.head? = some 0 then t else s.pc + 5
  | .jnz t => if s.ostack.head? = some 0 then s.pc + 5 else t
  | .ret => s.cstack.headD 0

/-- The next step of `s` is a STORE of `x` to cell `i` that completes (R150). -/
def StoresTo (s : State) (i : Nat) (x : Word) : Prop :=
  s.active = true ∧ i < 1024 ∧ s.ostack.head? = some x ∧
    ∃ w : Word, s.fetch = .ok (.store w) ∧ w.toNat = i

/-- The opcode byte is one of the 239 illegal values, as R77 lists them. -/
def isIllegalByte (op : Byte) : Prop :=
  op.toNat = 0x00 ∨ (0x04 ≤ op.toNat ∧ op.toNat ≤ 0x0F) ∨ (0x15 ≤ op.toNat ∧ op.toNat ≤ 0x1F) ∨
  (0x23 ≤ op.toNat ∧ op.toNat ≤ 0x2F) ∨ (0x32 ≤ op.toNat ∧ op.toNat ≤ 0x3F) ∨
  (0x42 ≤ op.toNat ∧ op.toNat ≤ 0x4F) ∨ (0x51 ≤ op.toNat ∧ op.toNat ≤ 0xFE)

end Sys2Proof.Machine
end

