-- ==== Sys2Proof/Certificates/Slice0/Obligations.lean ====
section
/-! DEFINITION. The statements for the provers. OBLIGATIONS.json lists them; `trapState`, `RunsF1`, `RunsF5`,
`PushesExactResult` and the other terms they share stand in Sys2Proof/Safety.lean. -/

open Sys2Proof Sys2Proof.Machine

/-! ### Encoding -/

/-- R71, R74, R75: decoding the encoding of any instruction gives it back, whatever bytes follow, and
the encoding has the length that the instruction takes. -/
def Obligations.DecodeOfEncodeIsTheInstruction : Prop :=
  ∀ (i : Instr) (rest : List Byte), i.wf = true →
    decode (encode i ++ rest) = .ok i ∧ (encode i).length = i.size

/-- R70, R71, R72: bytes have one meaning: where they decode to an instruction, they begin with exactly
its encoding. No bit of an operand is dropped and no second encoding exists. -/
def Obligations.DecodedBytesAreTheEncoding : Prop :=
  ∀ (bs : List Byte) (i : Instr), decode bs = .ok i → bs.take i.size = encode i

/-- R70, R74, R75: the byte strings that are exactly one instruction, an F1 byte alone or an F5 byte with
four more, are exactly the encodings. -/
def Obligations.WellFormedBytesAreExactlyTheEncodings : Prop :=
  ∀ bs : List Byte, instrBytesWf bs = true ↔ ∃ i : Instr, bs = encode i

/-- R100 and R75: some words written out from the spec decode to the instructions they stand for. -/
def Obligations.WrittenWordsDecode : Prop :=
  decode [0x01, 0x00, 0x00, 0x00, 0x2A] = .ok (.push 42) ∧
  decode [0x01, 0xFF, 0xFF, 0xFF, 0xFF] = .ok (.push (-1)) ∧
  decode [0x20, 0x00, 0x00, 0x00, 0x0A] = .ok (.jmp 10) ∧
  decode [0x30, 0x00, 0x00, 0x03, 0xFF] = .ok (.store 1023) ∧
  decode [0x40, 0x00, 0x00, 0x00, 0x0B] = .ok (.call 11) ∧
  decode [0x13] = .ok .div ∧
  decode [0xFF] = .ok .halt

/-! ### The step -/

/-- R80, R84: an active core whose bytes at `pc` decode to `i` executes `i` on the state before the
step; nothing is added around it (the meaning itself moves `pc` past the instruction). -/
def Obligations.StepRunsTheDecodedInstruction : Prop :=
  ∀ (s : State) (i : Instr), s.active = true → decode (s.code.drop (u32 s.pc)) = .ok i →
    i.wf = true → step s = exec i s

/-- R86 (the spec's decision D17): a core that is not active has no step: STEP, any number of them,
changes nothing. -/
def Obligations.StoppedCoreKeepsItsState : Prop :=
  ∀ (s : State) (k : Nat), (s.running = false ∨ s.codeLen ≤ u32 s.pc) →
    step s = .next s ∧ StepsTo s k s

/-- R227: a step has an outcome from every state, and it is a next state: never a fault, a refusal or
a stuck state; a trap is a next state too (log 1). At most one print event is added. -/
def Obligations.EveryStepAnswersANextState : Prop :=
  ∀ s : State, ∃ (t : State) (ev : List Word),
    step s = .next t ∧ t.out = s.out ++ ev ∧ ev.length ≤ 1

/-- R187: decode raises UNKNOWN_OPCODE, cause 7, when the byte at `pc` is one of the 239 illegal values,
whatever follows it, and no step from a legal byte records that cause. -/
def Obligations.IllegalOpcodeBytesTrap : Prop :=
  ∀ (s : State) (op : Byte), s.active = true → s.code[u32 s.pc]? = some op →
    (isIllegalByte op → step s = .next (trapState 7 s)) ∧
    (¬ isIllegalByte op → ∀ t, step s = .next t → t.trapCause = 7 → s.trapCause = 7)

/-- R185: the operand fetch of any F5 opcode at `A` raises UNEXPECTED_END, cause 5, when `A + 5 > N`, and
no other step records that cause. -/
def Obligations.TruncatedOperandTraps : Prop :=
  ∀ (s : State) (op : Byte), s.active = true → s.code[u32 s.pc]? = some op →
    (op.toNat ∈ [0x01, 0x20, 0x21, 0x22, 0x30, 0x31, 0x40] ∧ s.codeLen < u32 s.pc + 5 →
      step s = .next (trapState 5 s)) ∧
    (¬ (op.toNat ∈ [0x01, 0x20, 0x21, 0x22, 0x30, 0x31, 0x40] ∧ s.codeLen < u32 s.pc + 5) →
      ∀ t, step s = .next t → t.trapCause = 5 → s.trapCause = 5)

/-! ### The instructions, each with its completion, its traps, its frame and its encoding -/

/-- R110: PUSH. -/
def Obligations.PushPushesItsOperand : Prop :=
  RunsF5 0x01 Instr.push ∧ ∀ (v : Word) (s : State),
    (s.params.ostackDepth ≠ .finite s.ostack.length →
      exec (.push v) s = .next { s with pc := s.pc + 5, ostack := v :: s.ostack }) ∧
    (s.params.ostackDepth = .finite s.ostack.length → exec (.push v) s = .next (trapState 9 s))

/-- R111: POP. -/
def Obligations.PopDiscardsTheTop : Prop :=
  RunsF1 0x02 Instr.pop ∧ ∀ s : State,
    (∀ (x : Word) (rest : List Word), s.ostack = x :: rest →
      exec .pop s = .next { s with pc := s.pc + 1, ostack := rest }) ∧
    (s.ostack = [] → exec .pop s = .next (trapState 1 s))

/-- R112: DUP. An empty stack is checked before a full one. -/
def Obligations.DupCopiesTheTop : Prop :=
  RunsF1 0x03 Instr.dup ∧ ∀ s : State,
    (∀ (x : Word) (rest : List Word), s.ostack = x :: rest →
      (s.params.ostackDepth ≠ .finite s.ostack.length →
        exec .dup s = .next { s with pc := s.pc + 1, ostack := x :: x :: rest }) ∧
      (s.params.ostackDepth = .finite s.ostack.length → exec .dup s = .next (trapState 9 s))) ∧
    (s.ostack = [] → exec .dup s = .next (trapState 1 s))

/-- R121: ADD, with the overflow of R120 (the spec's decision D4, log 10). -/
def Obligations.AddPushesTheSum : Prop :=
  RunsF1 0x10 Instr.add ∧ PushesExactResult .add (fun a b => a + b)

/-- R122: SUB: the top is subtracted from the entry beneath it, with the overflow of R120 (the spec's
decision D4, log 10). -/
def Obligations.SubPushesTheDifference : Prop :=
  RunsF1 0x11 Instr.sub ∧ PushesExactResult .sub (fun a b => a - b)

/-- R123: MUL, with the overflow of R120 (the spec's decision D4, log 10). -/
def Obligations.MulPushesTheProduct : Prop :=
  RunsF1 0x12 Instr.mul ∧ PushesExactResult .mul (fun a b => a * b)

/-- R124 with R14: DIV: the quotient's magnitude is the floor of the quotient of the magnitudes, and it is
negative exactly when the signs are opposite and `|a| >= |b|`. The one unrepresentable quotient goes
by DIV_OVERFLOW_MODE (the spec's decision D5, log 11). -/
def Obligations.DivPushesTheTruncatedQuotient : Prop :=
  RunsF1 0x13 Instr.div ∧ ∀ s : State,
    (s.ostack.length < 2 → exec .div s = .next (trapState 1 s)) ∧
    ∀ (b a : Word) (rest : List Word), s.ostack = b :: a :: rest →
      (b.toInt = 0 → exec .div s = .next (trapState 2 s)) ∧
      (a.toInt = -2147483648 ∧ b.toInt = -1 →
        (s.params.divOverflow = .trap → exec .div s = .next (trapState 8 s)) ∧
        (s.params.divOverflow = .wrap → ∃ q : Word, q.toInt = -2147483648 ∧
          exec .div s = .next { s with pc := s.pc + 1, ostack := q :: rest })) ∧
      (b.toInt ≠ 0 ∧ ¬ (a.toInt = -2147483648 ∧ b.toInt = -1) →
        ∃ q : Word, q.toInt.natAbs = a.toInt.natAbs / b.toInt.natAbs ∧
          (q.toInt < 0 ↔ ((a.toInt < 0 ∧ 0 < b.toInt) ∨ (0 < a.toInt ∧ b.toInt < 0)) ∧
            b.toInt.natAbs ≤ a.toInt.natAbs) ∧
          exec .div s = .next { s with pc := s.pc + 1, ostack := q :: rest })

/-- R124: `a - (a / b) * b` is the remainder: smaller than the divisor and zero or of the dividend's
sign. This fixes the rounding of DIV a second way. -/
def Obligations.DivLeavesARemainderOfTheDividendsSign : Prop :=
  ∀ (s t : State) (b a q : Word) (rest : List Word), s.ostack = b :: a :: rest →
    b.toInt ≠ 0 → ¬ (a.toInt = -2147483648 ∧ b.toInt = -1) →
    exec .div s = .next t → t.ostack = q :: rest →
    (a.toInt - q.toInt * b.toInt).natAbs < b.toInt.natAbs ∧
    (a.toInt - q.toInt * b.toInt = 0 ∨ (a.toInt - q.toInt * b.toInt).sign = a.toInt.sign)

/-- R125: CMP pushes the sign of `a - b`, computed without overflow. -/
def Obligations.CmpPushesTheExactSign : Prop :=
  RunsF1 0x14 Instr.cmp ∧ ∀ s : State,
    (∀ (b a : Word) (rest : List Word), s.ostack = b :: a :: rest →
      ∃ r : Word, r.toInt = (a.toInt - b.toInt).sign ∧
        exec .cmp s = .next { s with pc := s.pc + 1, ostack := r :: rest }) ∧
    (s.ostack.length < 2 → exec .cmp s = .next (trapState 1 s))

/-- R140: JMP. -/
def Obligations.JmpSetsThePc : Prop :=
  RunsF5 0x20 Instr.jmp ∧ ∀ (t : Word) (s : State),
    (t.toNat < s.codeLen → exec (.jmp t) s = .next { s with pc := t }) ∧
    (s.codeLen ≤ t.toNat → exec (.jmp t) s = .next (trapState 4 s))

/-- R141: JZ: the target is checked taken or not (the spec's decision D11, log 15), then the depth; the value
is consumed in both outcomes. -/
def Obligations.JzJumpsOnZero : Prop :=
  RunsF5 0x21 Instr.jz ∧ ∀ (t : Word) (s : State),
    (s.codeLen ≤ t.toNat → exec (.jz t) s = .next (trapState 4 s)) ∧
    (t.toNat < s.codeLen → s.ostack = [] → exec (.jz t) s = .next (trapState 1 s)) ∧
    (t.toNat < s.codeLen → ∀ (x : Word) (rest : List Word), s.ostack = x :: rest →
      exec (.jz t) s =
        .next { s with pc := if x.toInt = 0 then t else s.pc + 5, ostack := rest })

/-- R142: JNZ: as JZ, with the other outcome. -/
def Obligations.JnzJumpsOnNonzero : Prop :=
  RunsF5 0x22 Instr.jnz ∧ ∀ (t : Word) (s : State),
    (s.codeLen ≤ t.toNat → exec (.jnz t) s = .next (trapState 4 s)) ∧
    (t.toNat < s.codeLen → s.ostack = [] → exec (.jnz t) s = .next (trapState 1 s)) ∧
    (t.toNat < s.codeLen → ∀ (x : Word) (rest : List Word), s.ostack = x :: rest →
      exec (.jnz t) s =
        .next { s with pc := if x.toInt = 0 then s.pc + 5 else t, ostack := rest })

/-- R150: STORE: the index is checked before the depth; the popped value is what the cell then reads, and
every other cell reads as before. That the memory keeps its canonical form is the model's own
(log 5). -/
def Obligations.StoreWritesItsCell : Prop :=
  RunsF5 0x30 Instr.store ∧ ∀ (k : Word) (s : State),
    (1024 ≤ u32 k → exec (.store k) s = .next (trapState 3 s)) ∧
    (u32 k < 1024 → s.ostack = [] → exec (.store k) s = .next (trapState 1 s)) ∧
    (u32 k < 1024 → ∀ (x : Word) (rest : List Word), s.ostack = x :: rest →
      ∃ m : Memory,
        exec (.store k) s = .next { s with pc := s.pc + 5, ostack := rest, mem := m } ∧
        (Memory.wf s.mem = true → Memory.wf m = true ∧ Memory.read m (u32 k) = x ∧
          ∀ j, j ≠ u32 k → Memory.read m j = Memory.read s.mem j))

/-- R151: LOAD: the index is checked before the capacity; the cell is not changed. -/
def Obligations.LoadPushesItsCell : Prop :=
  RunsF5 0x31 Instr.load ∧ ∀ (k : Word) (s : State),
    (1024 ≤ u32 k → exec (.load k) s = .next (trapState 3 s)) ∧
    (u32 k < 1024 → s.params.ostackDepth = .finite s.ostack.length →
      exec (.load k) s = .next (trapState 9 s)) ∧
    (u32 k < 1024 → s.params.ostackDepth ≠ .finite s.ostack.length →
      exec (.load k) s =
        .next { s with pc := s.pc + 5, ostack := Memory.read s.mem (u32 k) :: s.ostack })

/-- R160: CALL: the target is checked before the capacity; the return address is the post-operand pc. -/
def Obligations.CallPushesTheReturnAddress : Prop :=
  RunsF5 0x40 Instr.call ∧ ∀ (t : Word) (s : State),
    (s.codeLen ≤ t.toNat → exec (.call t) s = .next (trapState 4 s)) ∧
    (t.toNat < s.codeLen → s.params.cstackDepth = .finite s.cstack.length →
      exec (.call t) s = .next (trapState 10 s)) ∧
    (t.toNat < s.codeLen → s.params.cstackDepth ≠ .finite s.cstack.length →
      exec (.call t) s = .next { s with pc := t, cstack := (s.pc + 5) :: s.cstack })

/-- R161: RET: the popped address is not checked (the spec's decision D13, log 16). -/
def Obligations.RetPopsThePc : Prop :=
  RunsF1 0x41 Instr.ret ∧ ∀ s : State,
    (∀ (a : Word) (rest : List Word), s.cstack = a :: rest →
      exec .ret s = .next { s with pc := a, cstack := rest }) ∧
    (s.cstack = [] → exec .ret s = .next (trapState 6 s))

/-- R170: PRINT: one event that carries the popped value, after the earlier ones (the spec's decision D16,
log 8); none on a trap. -/
def Obligations.PrintEmitsTheTop : Prop :=
  RunsF1 0x50 Instr.print ∧ ∀ s : State,
    (∀ (x : Word) (rest : List Word), s.ostack = x :: rest →
      exec .print s = .next { s with pc := s.pc + 1, ostack := rest, out := s.out ++ [x] }) ∧
    (s.ostack = [] → exec .print s = .next (trapState 1 s))

/-- R171: HALT: `running` is cleared and `pc` is past it; nothing else changes, HALT cannot trap, and no
later step fetches or changes anything. -/
def Obligations.HaltStopsTheCore : Prop :=
  RunsF1 0xFF Instr.halt ∧ ∀ s : State,
    exec .halt s = .next { s with pc := s.pc + 1, running := false } ∧
    ∀ k : Nat, StepsTo { s with pc := s.pc + 1, running := false } k
      { s with pc := s.pc + 1, running := false }

/-! ### Traps -/

/-- R192, R189: trap entry writes `running` and `trap_cause` alone, with the code of the table (the
spec's numbers, decision D8, log 13). -/
def Obligations.TrapEntryRecordsTheCause : Prop :=
  ∀ s : State,
    s.takeTrap .stackUnderflow = { s with running := false, trapCause := 1 } ∧
    s.takeTrap .divByZero = { s with running := false, trapCause := 2 } ∧
    s.takeTrap .memOutOfBounds = { s with running := false, trapCause := 3 } ∧
    s.takeTrap .invalidTarget = { s with running := false, trapCause := 4 } ∧
    s.takeTrap .unexpectedEnd = { s with running := false, trapCause := 5 } ∧
    s.takeTrap .retEmpty = { s with running := false, trapCause := 6 } ∧
    s.takeTrap .unknownOpcode = { s with running := false, trapCause := 7 } ∧
    s.takeTrap .arithOverflow = { s with running := false, trapCause := 8 } ∧
    s.takeTrap .ostackOverflow = { s with running := false, trapCause := 9 } ∧
    s.takeTrap .cstackOverflow = { s with running := false, trapCause := 10 }

/-- R193 (the spec's decision D9, log 12): a step of a running core that leaves it stopped either ran a HALT
or trapped, and a trap changed nothing but `running` and `trap_cause`, with one of the ten codes. -/
def Obligations.TrapsArePrecise : Prop :=
  ∀ s t : State, s.running = true → step s = .next t → t.running = false →
    (s.fetch = .ok .halt ∧ t = { s with pc := s.pc + 1, running := false }) ∨
    ∃ c : BitVec 8, 1 ≤ c.toNat ∧ c.toNat ≤ 10 ∧ t = trapState c s

/-- R181 with the order of R194 (decision D10, log 14): an instruction whose operand is in range and that
needs more entries than the stack holds takes STACK_UNDERFLOW, cause 1, and with enough entries no
instruction records that cause. -/
def Obligations.TooFewEntriesUnderflow : Prop :=
  ∀ (i : Instr) (s : State),
    (s.ostack.length < entriesNeeded i → operandInRange i s →
      exec i s = .next (trapState 1 s)) ∧
    (entriesNeeded i ≤ s.ostack.length → ∀ t, exec i s = .next t → t.trapCause = 1 →
      s.trapCause = 1)

/-- R194 (the spec's decision D10, log 14): the pairs of causes that can meet, and which one is raised:
decode before operand fetch, target before depth, index before depth, index before capacity, target
before capacity, depth before divisor, divisor before the rest of the division. -/
def Obligations.ChecksComeInTheirOrder : Prop :=
  (∀ (s : State) (op : Byte), s.active = true → s.code[u32 s.pc]? = some op → isIllegalByte op →
    s.codeLen < u32 s.pc + 5 → step s = .next (trapState 7 s)) ∧
  (∀ (t : Word) (s : State), s.codeLen ≤ t.toNat → s.ostack = [] →
    exec (.jz t) s = .next (trapState 4 s) ∧ exec (.jnz t) s = .next (trapState 4 s)) ∧
  (∀ (k : Word) (s : State), 1024 ≤ k.toNat → s.ostack = [] →
    exec (.store k) s = .next (trapState 3 s)) ∧
  (∀ (k : Word) (s : State), 1024 ≤ k.toNat → s.params.ostackDepth = .finite s.ostack.length →
    exec (.load k) s = .next (trapState 3 s)) ∧
  (∀ (t : Word) (s : State), s.codeLen ≤ t.toNat → s.params.cstackDepth = .finite s.cstack.length →
    exec (.call t) s = .next (trapState 4 s)) ∧
  (∀ (s : State), s.ostack = [0] → exec .div s = .next (trapState 1 s)) ∧
  (∀ (s : State) (a : Word) (rest : List Word), s.ostack = 0 :: a :: rest →
    exec .div s = .next (trapState 2 s))

/-! ### What instructions leave alone -/

/-- R22: no step writes `code`, RESET leaves it, and LOAD sets it. -/
def Obligations.CodeIsImmutable : Prop :=
  (∀ s t : State, step s = .next t → t.code = s.code) ∧
  (∀ s : State, s.resetCommand.code = s.code) ∧
  (∀ (image : List Byte) (s t : State), s.load image = .next t → t.code = image)

/-- The model's own field (log 2): the implementation parameters of 00_scope.md section 0.4 are never
written by a step, by RESET or by LOAD. -/
def Obligations.ParametersNeverChange : Prop :=
  (∀ s t : State, step s = .next t → t.params = s.params) ∧
  (∀ s : State, s.resetCommand.params = s.params) ∧
  (∀ (image : List Byte) (s t : State), s.load image = .next t → t.params = s.params)

/-- R28 and R27: only HALT and trap entry clear `running`, only trap entry writes `trap_cause`, nothing
sets `running` but LOAD and RESET, and no instruction reads either of the two. -/
def Obligations.StatusIsWrittenOnlyByHaltAndTraps : Prop :=
  (∀ (i : Instr) (s t : State), exec i s = .next t →
    (t.running = s.running ∧ t.trapCause = s.trapCause) ∨
    (i = .halt ∧ t.running = false ∧ t.trapCause = s.trapCause) ∨
    (t.running = false ∧ 1 ≤ t.trapCause.toNat ∧ t.trapCause.toNat ≤ 10)) ∧
  (∀ (i : Instr) (s t : State) (r : Bool) (c : BitVec 8), exec i s = .next t →
    ∃ t' : State, exec i { s with running := r, trapCause := c } = .next t' ∧
      { t' with running := t.running, trapCause := t.trapCause } = t) ∧
  (∀ s : State, s.resetCommand.running = true ∧ s.resetCommand.trapCause = 0) ∧
  (∀ (image : List Byte) (s t : State), s.load image = .next t →
    t.running = true ∧ t.trapCause = 0)

/-- R30: only STORE writes the memory, and only LOAD reads it: an instruction other than the two does the
same whatever the memory holds. Every cell is 0 after LOAD and after RESET. -/
def Obligations.OnlyStoreWritesAndOnlyLoadReadsMemory : Prop :=
  (∀ (i : Instr) (s t : State), (∀ k, i ≠ .store k) → exec i s = .next t →
    t.mem = s.mem ∧ ∀ j, t.readCell j = s.readCell j) ∧
  (∀ (i : Instr) (s t : State) (m : Memory), (∀ k, i ≠ .load k) → (∀ k, i ≠ .store k) →
    exec i s = .next t → exec i { s with mem := m } = .next { t with mem := m }) ∧
  (∀ (s : State) (j : Nat), s.resetCommand.readCell j = 0) ∧
  (∀ (image : List Byte) (s t : State) (j : Nat), s.load image = .next t → t.readCell j = 0)

/-- R42 (decision D16, log 8): a step only appends to the print port, and only a PRINT that completes does so,
with the one value it pops. -/
def Obligations.OnlyPrintAppendsToThePort : Prop :=
  ∀ s t : State, step s = .next t →
    t.out = s.out ∨
    ∃ (x : Word) (rest : List Word), s.fetch = .ok .print ∧ s.ostack = x :: rest ∧
      t.out = s.out ++ [x] ∧ t.ostack = rest

/-- R25: an instruction reaches the operand stack only at the top: it replaces the entries it needs by
those it leaves, and every entry below stays. A trap leaves the stack (R193, log 12). -/
def Obligations.OnlyTheTopOfTheOperandStackChanges : Prop :=
  ∀ (i : Instr) (s t : State), exec i s = .next t →
    (t.ostack = s.ostack ∧ ∃ c, t = trapState c s) ∨
    (entriesNeeded i ≤ s.ostack.length ∧ ∃ new : List Word, new.length = entriesLeft i ∧
      t.ostack = new ++ s.ostack.drop (entriesNeeded i))

/-- R26: only CALL pushes the call stack and only RET pops it, by one entry each. -/
def Obligations.OnlyCallAndRetTouchTheCallStack : Prop :=
  ∀ (i : Instr) (s t : State), exec i s = .next t →
    t.cstack = s.cstack ∨
    (∃ k : Word, i = .call k ∧ t.cstack = (s.pc + 5) :: s.cstack) ∨
    (i = .ret ∧ ∃ a : Word, s.cstack = a :: t.cstack ∧ t.pc = a)

/-- R24: how each instruction leaves `pc`: as the table says where it does not trap, and at the opcode
address where it does (R193, log 12). -/
def Obligations.PcFollowsTheTable : Prop :=
  ∀ (i : Instr) (s t : State), exec i s = .next t →
    t.pc = pcAfter i s ∨ ∃ c : BitVec 8, 1 ≤ c.toNat ∧ c.toNat ≤ 10 ∧ t = trapState c s

/-- R160, R161: a RET whose call stack is as the CALL left it comes back to the instruction after the CALL,
whatever the callee did to the operand stack, the memory and the port. -/
def Obligations.RetReturnsBehindTheCall : Prop :=
  ∀ (k : Word) (s u v : State), k.toNat < s.codeLen →
    s.params.cstackDepth ≠ .finite s.cstack.length →
    exec (.call k) s = .next u → v.cstack = u.cstack →
    exec .ret v = .next { v with pc := s.pc + 5, cstack := s.cstack }

/-! ### Memory over a run -/

/-- The model's choice of form (log 5): two memories in canonical form that read alike at every cell are
the same data. -/
def Obligations.CanonicalMemoriesThatReadAlikeAreEqual : Prop :=
  ∀ m m' : Memory, Memory.wf m = true → Memory.wf m' = true →
    (∀ j, Memory.read m j = Memory.read m' j) → m = m'

/-- R61: after any number of steps a cell holds the value of the most recent STORE to it among them, or
what it held before when there is none. -/
def Obligations.CellHoldsTheMostRecentStore : Prop :=
  ∀ (k : Nat) (s t : State) (i : Nat), Memory.wf s.mem = true → StepsTo s k t →
    (t.readCell i = s.readCell i ∧
      ∀ (j : Nat) (u : State) (x : Word), j < k → StepsTo s j u → ¬ StoresTo u i x) ∨
    (∃ (j : Nat) (u : State) (x : Word), j < k ∧ StepsTo s j u ∧ StoresTo u i x ∧
      t.readCell i = x ∧
      ∀ (l : Nat) (v : State) (y : Word), j < l → l < k → StepsTo s l v → ¬ StoresTo v i y)

/-! ### Reset, load and the invariants -/

/-- R35: the state right after reset. The empty image, the empty port and the depths are the model's
choice (logs 3, 4 and 8). -/
def Obligations.ResetStateHasTheResetValues : Prop :=
  State.reset.pc = 0 ∧ State.reset.ostack = [] ∧ State.reset.cstack = [] ∧
  State.reset.running = true ∧ State.reset.trapCause = 0 ∧
  (∀ j, State.reset.readCell j = 0) ∧
  State.reset.params.arithOverflow = .wrap ∧ State.reset.params.divOverflow = .trap

/-- R211: RESET keeps `code` and the port's history and gives every other element its value of R35. -/
def Obligations.ResetCommandReinitialises : Prop :=
  ∀ s : State, s.resetCommand =
    { params := s.params, code := s.code, pc := 0, ostack := [], cstack := [], mem := [],
      running := true, trapCause := 0, out := s.out }

/-- R210: LOAD of an image of at most 2^32 - 1 bytes, whatever they are, installs it and gives every
other element of R20 its value of R35. (`params` and `out` are the model's own fields: logs 2 and 8.) -/
def Obligations.LoadInstallsTheImage : Prop :=
  ∀ (image : List Byte) (s : State), image.length ≤ 4294967295 →
    s.load image = .next
      { params := s.params, code := image, pc := 0, ostack := [], cstack := [], mem := [],
        running := true, trapCause := 0, out := s.out }

/-- R6 (the spec's decision D3) and I12: LOAD refuses a longer image (log 20). -/
def Obligations.LoadRefusesALongerImage : Prop :=
  ∀ (image : List Byte) (s : State), 4294967295 < image.length →
    s.load image = .refused (.imageTooLong image.length)

/-- R34: the invariants hold right after reset. -/
def Obligations.InvariantsHoldAtReset : Prop := State.reset.Inv

/-- R34: the invariants hold after any LOAD, and RESET of a state whose image has a legal length gives
them back. -/
def Obligations.InvariantsHoldAfterLoadAndReset : Prop :=
  (∀ (image : List Byte) (s t : State), s.load image = .next t → t.Inv) ∧
  (∀ s : State, s.codeLen ≤ 4294967295 → s.resetCommand.Inv)

/-- R34: every step keeps the invariants: `pc` and every return address stay at most `N`, both stacks stay
within their capacities, no running core has a trap cause, and the memory keeps its form. -/
def Obligations.EveryStepKeepsTheInvariants : Prop :=
  ∀ s t : State, s.Inv → step s = .next t → t.Inv

/-- R23: `pc` never wraps around: from a state with the invariants, an instruction that is fetched ends at
most at `N`, and its post-operand pc is computed without wrapping. -/
def Obligations.PcNeverWraps : Prop :=
  ∀ (s : State) (i : Instr), s.Inv → s.active = true → s.fetch = .ok i →
    u32 s.pc + i.size ≤ s.codeLen ∧
    u32 (s.pc + BitVec.ofNat 32 i.size) = u32 s.pc + i.size

/-! ### The end of a run -/

/-- R43: a core that is not active and has the invariants is in exactly one of the three end conditions,
and the end kind says which. -/
def Obligations.StoppedCoreHasOneEndKind : Prop :=
  ∀ s : State, s.Inv → s.active = false →
    (s.running = false ∧ s.trapCause = 0 ∧ s.endKind = some .halted) ∨
    (s.running = false ∧ s.trapCause ≠ 0 ∧ s.endKind = some (.trapped s.trapCause)) ∨
    (s.running = true ∧ u32 s.pc = s.codeLen ∧ s.endKind = some .ended)

/-- R225, R226: RUN under fuel answers a final state exactly when that many steps reach HALTED or ENDED, and a
fault exactly when they reach TRAPPED; it refuses only for want of fuel. -/
def Obligations.RunCommandAnswersTheEndOfTheRun : Prop :=
  ∀ (fuel : Nat) (s : State),
    (∀ t, runCommand fuel s = .next t ↔
      StepsTo s fuel t ∧ (t.endKind = some .halted ∨ t.endKind = some .ended)) ∧
    (∀ c, runCommand fuel s = .fault (.trapped c) ↔
      ∃ t, StepsTo s fuel t ∧ t.endKind = some (.trapped c)) ∧
    (∀ r, runCommand fuel s = .refused r ↔
      r = .outOfFuel ∧ ∃ t, StepsTo s fuel t ∧ t.active = true)

/-- R222, R226: a run is safe exactly when RUN answers a fault under no fuel. -/
def Obligations.SafeRunsAreThoseThatNeverFault : Prop :=
  ∀ s : State, SafeRun s ↔ ∀ (fuel : Nat) (c : BitVec 8), runCommand fuel s ≠ .fault (.trapped c)

/-- R214, R42 (decision D16): after RESET a run of the same image goes as after LOAD: step by step the same
states and the same new print events, whatever was printed or left over before. -/
def Obligations.RunsAfterResetRepeatRunsAfterLoad : Prop :=
  ∀ (k : Nat) (s l t : State), s.load s.code = .next l → StepsTo l k t →
    ∀ old : State, old.code = s.code → old.params = s.params →
      ∃ ev : List Word, t.out = s.out ++ ev ∧
        StepsTo old.resetCommand k { t with out := old.out ++ ev }

/-- R41: `result` is the top of the operand stack, and 0 when it is empty. -/
def Obligations.ResultIsTheTopOrZero : Prop :=
  ∀ s : State,
    (∀ (x : Word) (rest : List Word), s.ostack = x :: rest → s.result = x) ∧
    (s.ostack = [] → s.result = 0)
end

