-- ==== Sys2Proof/Laws/State.lean ====
section
/-! SUPPORT. One lemma per field and update of the state, so that no proof unfolds a record update. -/

namespace Sys2Proof.Machine

variable (s : State)

/-! ### jump -/

@[simp] theorem State.params_jump (t : Word) : (s.jump t).params = s.params := rfl
@[simp] theorem State.code_jump (t : Word) : (s.jump t).code = s.code := rfl
@[simp] theorem State.pc_jump (t : Word) : (s.jump t).pc = t := rfl
@[simp] theorem State.ostack_jump (t : Word) : (s.jump t).ostack = s.ostack := rfl
@[simp] theorem State.cstack_jump (t : Word) : (s.jump t).cstack = s.cstack := rfl
@[simp] theorem State.mem_jump (t : Word) : (s.jump t).mem = s.mem := rfl
@[simp] theorem State.running_jump (t : Word) : (s.jump t).running = s.running := rfl
@[simp] theorem State.trapCause_jump (t : Word) : (s.jump t).trapCause = s.trapCause := rfl
@[simp] theorem State.out_jump (t : Word) : (s.jump t).out = s.out := rfl

/-! ### advance -/

@[simp] theorem State.params_advance (n : Word) : (s.advance n).params = s.params := rfl
@[simp] theorem State.code_advance (n : Word) : (s.advance n).code = s.code := rfl
@[simp] theorem State.pc_advance (n : Word) : (s.advance n).pc = s.pc + n := rfl
@[simp] theorem State.ostack_advance (n : Word) : (s.advance n).ostack = s.ostack := rfl
@[simp] theorem State.cstack_advance (n : Word) : (s.advance n).cstack = s.cstack := rfl
@[simp] theorem State.mem_advance (n : Word) : (s.advance n).mem = s.mem := rfl
@[simp] theorem State.running_advance (n : Word) : (s.advance n).running = s.running := rfl
@[simp] theorem State.trapCause_advance (n : Word) : (s.advance n).trapCause = s.trapCause := rfl
@[simp] theorem State.out_advance (n : Word) : (s.advance n).out = s.out := rfl

/-! ### stop -/

@[simp] theorem State.params_stop : (s.stop).params = s.params := rfl
@[simp] theorem State.code_stop : (s.stop).code = s.code := rfl
@[simp] theorem State.pc_stop : (s.stop).pc = s.pc := rfl
@[simp] theorem State.ostack_stop : (s.stop).ostack = s.ostack := rfl
@[simp] theorem State.cstack_stop : (s.stop).cstack = s.cstack := rfl
@[simp] theorem State.mem_stop : (s.stop).mem = s.mem := rfl
@[simp] theorem State.running_stop : (s.stop).running = false := rfl
@[simp] theorem State.trapCause_stop : (s.stop).trapCause = s.trapCause := rfl
@[simp] theorem State.out_stop : (s.stop).out = s.out := rfl

/-! ### push -/

@[simp] theorem State.params_push (v : Word) : (s.push v).params = s.params := rfl
@[simp] theorem State.code_push (v : Word) : (s.push v).code = s.code := rfl
@[simp] theorem State.pc_push (v : Word) : (s.push v).pc = s.pc := rfl
@[simp] theorem State.ostack_push (v : Word) : (s.push v).ostack = v :: s.ostack := rfl
@[simp] theorem State.cstack_push (v : Word) : (s.push v).cstack = s.cstack := rfl
@[simp] theorem State.mem_push (v : Word) : (s.push v).mem = s.mem := rfl
@[simp] theorem State.running_push (v : Word) : (s.push v).running = s.running := rfl
@[simp] theorem State.trapCause_push (v : Word) : (s.push v).trapCause = s.trapCause := rfl
@[simp] theorem State.out_push (v : Word) : (s.push v).out = s.out := rfl

/-! ### cpush -/

@[simp] theorem State.params_cpush (a : Word) : (s.cpush a).params = s.params := rfl
@[simp] theorem State.code_cpush (a : Word) : (s.cpush a).code = s.code := rfl
@[simp] theorem State.pc_cpush (a : Word) : (s.cpush a).pc = s.pc := rfl
@[simp] theorem State.ostack_cpush (a : Word) : (s.cpush a).ostack = s.ostack := rfl
@[simp] theorem State.cstack_cpush (a : Word) : (s.cpush a).cstack = a :: s.cstack := rfl
@[simp] theorem State.mem_cpush (a : Word) : (s.cpush a).mem = s.mem := rfl
@[simp] theorem State.running_cpush (a : Word) : (s.cpush a).running = s.running := rfl
@[simp] theorem State.trapCause_cpush (a : Word) : (s.cpush a).trapCause = s.trapCause := rfl
@[simp] theorem State.out_cpush (a : Word) : (s.cpush a).out = s.out := rfl

/-! ### writeCell -/

@[simp] theorem State.params_writeCell (i : Nat) (v : Word) : (s.writeCell i v).params = s.params := rfl
@[simp] theorem State.code_writeCell (i : Nat) (v : Word) : (s.writeCell i v).code = s.code := rfl
@[simp] theorem State.pc_writeCell (i : Nat) (v : Word) : (s.writeCell i v).pc = s.pc := rfl
@[simp] theorem State.ostack_writeCell (i : Nat) (v : Word) : (s.writeCell i v).ostack = s.ostack := rfl
@[simp] theorem State.cstack_writeCell (i : Nat) (v : Word) : (s.writeCell i v).cstack = s.cstack := rfl
@[simp] theorem State.mem_writeCell (i : Nat) (v : Word) : (s.writeCell i v).mem = Memory.write s.mem i v := rfl
@[simp] theorem State.running_writeCell (i : Nat) (v : Word) : (s.writeCell i v).running = s.running := rfl
@[simp] theorem State.trapCause_writeCell (i : Nat) (v : Word) : (s.writeCell i v).trapCause = s.trapCause := rfl
@[simp] theorem State.out_writeCell (i : Nat) (v : Word) : (s.writeCell i v).out = s.out := rfl

/-! ### emit -/

@[simp] theorem State.params_emit (v : Word) : (s.emit v).params = s.params := rfl
@[simp] theorem State.code_emit (v : Word) : (s.emit v).code = s.code := rfl
@[simp] theorem State.pc_emit (v : Word) : (s.emit v).pc = s.pc := rfl
@[simp] theorem State.ostack_emit (v : Word) : (s.emit v).ostack = s.ostack := rfl
@[simp] theorem State.cstack_emit (v : Word) : (s.emit v).cstack = s.cstack := rfl
@[simp] theorem State.mem_emit (v : Word) : (s.emit v).mem = s.mem := rfl
@[simp] theorem State.running_emit (v : Word) : (s.emit v).running = s.running := rfl
@[simp] theorem State.trapCause_emit (v : Word) : (s.emit v).trapCause = s.trapCause := rfl
@[simp] theorem State.out_emit (v : Word) : (s.emit v).out = s.out ++ [v] := rfl

/-! ### takeTrap -/

@[simp] theorem State.params_takeTrap (c : TrapCause) : (s.takeTrap c).params = s.params := rfl
@[simp] theorem State.code_takeTrap (c : TrapCause) : (s.takeTrap c).code = s.code := rfl
@[simp] theorem State.pc_takeTrap (c : TrapCause) : (s.takeTrap c).pc = s.pc := rfl
@[simp] theorem State.ostack_takeTrap (c : TrapCause) : (s.takeTrap c).ostack = s.ostack := rfl
@[simp] theorem State.cstack_takeTrap (c : TrapCause) : (s.takeTrap c).cstack = s.cstack := rfl
@[simp] theorem State.mem_takeTrap (c : TrapCause) : (s.takeTrap c).mem = s.mem := rfl
@[simp] theorem State.running_takeTrap (c : TrapCause) : (s.takeTrap c).running = false := rfl
@[simp] theorem State.trapCause_takeTrap (c : TrapCause) : (s.takeTrap c).trapCause = c.code := rfl
@[simp] theorem State.out_takeTrap (c : TrapCause) : (s.takeTrap c).out = s.out := rfl

/-! ### resetCommand -/

@[simp] theorem State.params_resetCommand : (s.resetCommand).params = s.params := rfl
@[simp] theorem State.code_resetCommand : (s.resetCommand).code = s.code := rfl
@[simp] theorem State.pc_resetCommand : (s.resetCommand).pc = 0 := rfl
@[simp] theorem State.ostack_resetCommand : (s.resetCommand).ostack = [] := rfl
@[simp] theorem State.cstack_resetCommand : (s.resetCommand).cstack = [] := rfl
@[simp] theorem State.mem_resetCommand : (s.resetCommand).mem = [] := rfl
@[simp] theorem State.running_resetCommand : (s.resetCommand).running = true := rfl
@[simp] theorem State.trapCause_resetCommand : (s.resetCommand).trapCause = 0 := rfl
@[simp] theorem State.out_resetCommand : (s.resetCommand).out = s.out := rfl

/-! ### derived readings -/

@[simp] theorem State.codeLen_jump (t : Word) : (s.jump t).codeLen = s.codeLen := rfl
@[simp] theorem State.codeLen_advance (n : Word) : (s.advance n).codeLen = s.codeLen := rfl
@[simp] theorem State.codeLen_stop : (s.stop).codeLen = s.codeLen := rfl
@[simp] theorem State.codeLen_push (v : Word) : (s.push v).codeLen = s.codeLen := rfl
@[simp] theorem State.codeLen_cpush (a : Word) : (s.cpush a).codeLen = s.codeLen := rfl
@[simp] theorem State.codeLen_writeCell (i : Nat) (v : Word) : (s.writeCell i v).codeLen = s.codeLen := rfl
@[simp] theorem State.codeLen_emit (v : Word) : (s.emit v).codeLen = s.codeLen := rfl
@[simp] theorem State.codeLen_takeTrap (c : TrapCause) : (s.takeTrap c).codeLen = s.codeLen := rfl
@[simp] theorem State.codeLen_resetCommand : (s.resetCommand).codeLen = s.codeLen := rfl

@[simp] theorem State.ostackFull_jump (t : Word) : (s.jump t).ostackFull = s.ostackFull := rfl
@[simp] theorem State.ostackFull_advance (n : Word) : (s.advance n).ostackFull = s.ostackFull := rfl
@[simp] theorem State.ostackFull_stop : (s.stop).ostackFull = s.ostackFull := rfl
@[simp] theorem State.ostackFull_cpush (a : Word) : (s.cpush a).ostackFull = s.ostackFull := rfl
@[simp] theorem State.ostackFull_writeCell (i : Nat) (v : Word) : (s.writeCell i v).ostackFull = s.ostackFull := rfl
@[simp] theorem State.ostackFull_emit (v : Word) : (s.emit v).ostackFull = s.ostackFull := rfl
@[simp] theorem State.ostackFull_takeTrap (c : TrapCause) : (s.takeTrap c).ostackFull = s.ostackFull := rfl

@[simp] theorem State.cstackFull_jump (t : Word) : (s.jump t).cstackFull = s.cstackFull := rfl
@[simp] theorem State.cstackFull_advance (n : Word) : (s.advance n).cstackFull = s.cstackFull := rfl
@[simp] theorem State.cstackFull_stop : (s.stop).cstackFull = s.cstackFull := rfl
@[simp] theorem State.cstackFull_push (v : Word) : (s.push v).cstackFull = s.cstackFull := rfl
@[simp] theorem State.cstackFull_writeCell (i : Nat) (v : Word) : (s.writeCell i v).cstackFull = s.cstackFull := rfl
@[simp] theorem State.cstackFull_emit (v : Word) : (s.emit v).cstackFull = s.cstackFull := rfl
@[simp] theorem State.cstackFull_takeTrap (c : TrapCause) : (s.takeTrap c).cstackFull = s.cstackFull := rfl

end Sys2Proof.Machine
end

