-- ==== Sys2Proof/Laws/Fetch.lean ====
section
/-! SUPPORT. The fetch: what a decoded instruction says of the bytes it came from (30_encoding.md R80 to R83). -/

namespace Sys2Proof

/-- Operand fetch answers a word only where four bytes remain. -/
theorem fetchOperand_ok {rest : List Byte} {w : Word} (h : fetchOperand rest = .ok w) :
    ∃ b3 b2 b1 b0 tail, rest = b3 :: b2 :: b1 :: b0 :: tail ∧ w = operandWord b3 b2 b1 b0 := by
  unfold fetchOperand at h
  split at h
  · cases h
    exact ⟨_, _, _, _, _, rfl, rfl⟩
  · cases h

/-- An instruction with an operand is decoded only where four bytes follow its opcode. -/
theorem withOperand_ok {mk : Word → Instr} {rest : List Byte} {i : Instr}
    (h : withOperand mk rest = .ok i) : ∃ w, fetchOperand rest = .ok w ∧ i = mk w := by
  unfold withOperand at h
  split at h
  · cases h
    exact ⟨_, ‹_›, rfl⟩
  · cases h

theorem four_le_of_withOperand {mk : Word → Instr} {rest : List Byte} {i : Instr}
    (h : withOperand mk rest = .ok i) : 4 ≤ rest.length := by
  obtain ⟨w, hw, -⟩ := withOperand_ok h
  obtain ⟨b3, b2, b1, b0, tail, rfl, -⟩ := fetchOperand_ok hw
  simp

theorem withOperand_ne_noByte (mk : Word → Instr) (rest : List Byte) :
    withOperand mk rest ≠ .error .noByte := by
  unfold withOperand
  split
  · simp
  · next e he =>
    unfold fetchOperand at he
    split at he <;> cases he
    simp

/-- Where there is an opcode byte, decode never lacks one. -/
theorem decode_cons_ne_noByte (op : Byte) (rest : List Byte) :
    decode (op :: rest) ≠ .error .noByte := by
  simp only [decode]
  split
  · simp
  · next o _ => cases o <;> first | exact withOperand_ne_noByte _ _ | simp [decodeInstr]

/-- A decoded instruction has all its bytes. -/
theorem size_le_of_decode {bs : List Byte} {i : Instr} (h : decode bs = .ok i) :
    i.size ≤ bs.length := by
  cases bs with
  | nil => cases h
  | cons op rest =>
    simp only [decode] at h
    split at h
    · cases h
    · next o _ =>
      cases o <;> simp only [decodeInstr] at h <;>
        first
          | (cases h; simp [Instr.size])
          | (have := four_le_of_withOperand h
             obtain ⟨w, -, rfl⟩ := withOperand_ok h
             simp only [Instr.size, List.length_cons]
             omega)

namespace Machine

/-- The fetched instruction ends inside the image, so the post-operand pc is at most `N` (R83). -/
theorem State.pc_add_size_le_of_fetch {s : State} {i : Instr} (h : s.fetch = .ok i) :
    u32 s.pc + i.size ≤ s.codeLen := by
  have h1 := size_le_of_decode h
  have h2 : 1 ≤ i.size := by cases i <;> simp [Instr.size]
  simp only [List.length_drop] at h1
  unfold State.codeLen
  omega

/-- The core is active exactly when it runs and `pc` is inside the image (R29). -/
theorem State.active_iff (s : State) : s.active = true ↔ s.running = true ∧ u32 s.pc < s.codeLen := by
  simp [State.active]

/-- An active core has a byte at `pc`, so its fetch never ends for want of one (R81). -/
theorem State.fetch_ne_noByte {s : State} (h : s.active = true) : s.fetch ≠ .error .noByte := by
  have hlt : u32 s.pc < s.code.length := ((State.active_iff s).1 h).2
  unfold State.fetch
  rw [List.drop_eq_getElem_cons hlt]
  exact decode_cons_ne_noByte _ _

end Machine

end Sys2Proof
end

