-- ==== Sys2Proof/Laws/Memory.lean ====
section
/-! SUPPORT. The data memory: what a read gives after a write, and that every operation keeps the canonical form
(43_memory_ops.md R150, R151; log 5). -/

namespace Sys2Proof.Machine

@[simp] theorem Memory.read_nil (i : Nat) : Memory.read [] i = 0 := rfl

@[simp] theorem Memory.wf_nil : Memory.wf [] = true := rfl

/-- What the canonical form from `lo` on says of a memory with a first entry. -/
theorem Memory.wfFrom_cons_iff (lo j : Nat) (v : Word) (rest : Memory) :
    Memory.wfFrom lo ((j, v) :: rest) = true ↔
      lo ≤ j ∧ j < memCells ∧ v ≠ 0 ∧ Memory.wfFrom (j + 1) rest = true := by
  simp [Memory.wfFrom, and_assoc]

/-- The canonical form from a cell on is one from any lower cell on. -/
theorem Memory.wfFrom_mono {lo lo' : Nat} (m : Memory) (h : Memory.wfFrom lo m = true)
    (hle : lo' ≤ lo) : Memory.wfFrom lo' m = true := by
  cases m with
  | nil => rfl
  | cons e rest =>
    obtain ⟨j, v⟩ := e
    rw [Memory.wfFrom_cons_iff] at h ⊢
    exact ⟨hle.trans h.1, h.2⟩

/-- A cell below every listed one reads 0. -/
theorem Memory.read_of_lt {lo i : Nat} (m : Memory) (h : Memory.wfFrom lo m = true) (hi : i < lo) :
    Memory.read m i = 0 := by
  induction m generalizing lo with
  | nil => rfl
  | cons e rest ih =>
    obtain ⟨j, v⟩ := e
    rw [Memory.wfFrom_cons_iff] at h
    rw [Memory.read, if_neg (by omega)]
    exact ih h.2.2.2 (by omega)

/-- A canonical memory reads 0 at every cell from 1024 on: no such cell is ever listed. -/
theorem Memory.read_of_memCells_le {lo i : Nat} (m : Memory) (h : Memory.wfFrom lo m = true)
    (hi : memCells ≤ i) : Memory.read m i = 0 := by
  induction m generalizing lo with
  | nil => rfl
  | cons e rest ih =>
    obtain ⟨j, v⟩ := e
    rw [Memory.wfFrom_cons_iff] at h
    rw [Memory.read, if_neg (by omega)]
    exact ih h.2.2.2

/-- An entry put in front keeps the canonical form. -/
theorem Memory.consEntry_wfFrom {lo i : Nat} {v : Word} {rest : Memory} (hlo : lo ≤ i)
    (hi : i < memCells) (h : Memory.wfFrom (i + 1) rest = true) :
    Memory.wfFrom lo (Memory.consEntry i v rest) = true := by
  unfold Memory.consEntry
  split
  · exact Memory.wfFrom_mono rest h (by omega)
  · exact (Memory.wfFrom_cons_iff ..).2 ⟨hlo, hi, ‹_›, h⟩

/-- What a cell reads as after an entry is put in front of later ones. -/
theorem Memory.read_consEntry {i : Nat} {v : Word} {rest : Memory}
    (h : Memory.wfFrom (i + 1) rest = true) (j : Nat) :
    Memory.read (Memory.consEntry i v rest) j = if j = i then v else Memory.read rest j := by
  unfold Memory.consEntry
  by_cases hj : j = i
  · subst hj
    split
    · simp_all [Memory.read_of_lt rest h]
    · simp [Memory.read]
  · have hij : i ≠ j := fun e => hj e.symm
    split <;> simp_all [Memory.read]

theorem Memory.write_wfFrom {lo i : Nat} {v : Word} (m : Memory) (h : Memory.wfFrom lo m = true)
    (hlo : lo ≤ i) (hi : i < memCells) : Memory.wfFrom lo (Memory.write m i v) = true := by
  induction m generalizing lo with
  | nil => exact Memory.consEntry_wfFrom hlo hi rfl
  | cons e rest ih =>
    obtain ⟨j, u⟩ := e
    have h' := (Memory.wfFrom_cons_iff ..).1 h
    unfold Memory.write
    split
    · exact Memory.consEntry_wfFrom hlo hi ((Memory.wfFrom_cons_iff ..).2 ⟨by omega, h'.2⟩)
    · split
      · next hik =>
        subst hik
        exact Memory.consEntry_wfFrom hlo hi h'.2.2.2
      · exact (Memory.wfFrom_cons_iff ..).2
          ⟨h'.1, h'.2.1, h'.2.2.1, ih h'.2.2.2 (by omega)⟩

/-- The one write of a cell keeps the canonical form. -/
theorem Memory.write_wf {i : Nat} {v : Word} {m : Memory} (h : Memory.wf m = true)
    (hi : i < memCells) : Memory.wf (Memory.write m i v) = true :=
  Memory.write_wfFrom m h (Nat.zero_le _) hi

theorem Memory.read_write_from {lo : Nat} (i j : Nat) (v : Word) (m : Memory)
    (h : Memory.wfFrom lo m = true) :
    Memory.read (Memory.write m i v) j = if j = i then v else Memory.read m j := by
  induction m generalizing lo with
  | nil => exact Memory.read_consEntry rfl j
  | cons e rest ih =>
    obtain ⟨k, u⟩ := e
    have h' := (Memory.wfFrom_cons_iff ..).1 h
    unfold Memory.write
    split
    · exact Memory.read_consEntry ((Memory.wfFrom_cons_iff ..).2 ⟨by omega, h'.2⟩) j
    · split
      · next hik =>
        subst hik
        rw [Memory.read_consEntry h'.2.2.2]
        by_cases hj : j = i
        · simp [hj]
        · have hij : i ≠ j := fun e => hj e.symm
          simp [Memory.read, hij]
      · by_cases hk : k = j
        · have : j ≠ i := by omega
          simp [Memory.read, hk, this]
        · simp [Memory.read, hk, ih h'.2.2.2]

/-- Read after write: the written cell reads the value written, every other cell as before. -/
theorem Memory.read_write (i j : Nat) (v : Word) {m : Memory} (h : Memory.wf m = true) :
    Memory.read (Memory.write m i v) j = if j = i then v else Memory.read m j :=
  Memory.read_write_from i j v m h

end Sys2Proof.Machine
end

