-- ==== Sys2Proof/Laws/Ops.lean ====
section
/-! SUPPORT. For each shared operation, once, everything it can do: when it answers, with what, and when it raises
which trap. -/

namespace Sys2Proof.Machine

/-! ### The end of a step -/

@[simp] theorem State.commit_ok (s s' : State) : s.commit (.ok s') = .next s' := rfl

@[simp] theorem State.commit_error (s : State) (c : TrapCause) :
    s.commit (.error c) = .next (s.takeTrap c) := rfl

/-- A step that commits always has a next state: the one its rule reached, or the trap's. -/
theorem State.commit_next_iff (s t : State) (r : Except TrapCause State) :
    s.commit r = .next t ↔ r = .ok t ∨ ∃ c, r = .error c ∧ t = s.takeTrap c := by
  cases r with
  | ok s' => simp
  | error c => simp [eq_comm]

/-! ### The stacks -/

theorem State.pop_ok_iff (s s' : State) (x : Word) :
    s.pop = .ok (x, s') ↔ ∃ rest, s.ostack = x :: rest ∧ s' = { s with ostack := rest } := by
  unfold State.pop
  cases h : s.ostack <;> simp [eq_comm]

theorem State.pop_error_iff (s : State) (c : TrapCause) :
    s.pop = .error c ↔ s.ostack = [] ∧ c = .stackUnderflow := by
  unfold State.pop
  cases h : s.ostack <;> simp [eq_comm]

theorem State.top_ok_iff (s : State) (x : Word) :
    s.top = .ok x ↔ ∃ rest, s.ostack = x :: rest := by
  unfold State.top
  cases h : s.ostack <;> simp

theorem State.top_error_iff (s : State) (c : TrapCause) :
    s.top = .error c ↔ s.ostack = [] ∧ c = .stackUnderflow := by
  unfold State.top
  cases h : s.ostack <;> simp [eq_comm]

theorem State.popPair_ok_iff (s s' : State) (a b : Word) :
    s.popPair = .ok (a, b, s') ↔
      ∃ rest, s.ostack = b :: a :: rest ∧ s' = { s with ostack := rest } := by
  unfold State.popPair
  rcases h : s.ostack with _ | ⟨x, _ | ⟨y, rest⟩⟩ <;> simp
  grind

theorem State.popPair_error_iff (s : State) (c : TrapCause) :
    s.popPair = .error c ↔ s.ostack.length < 2 ∧ c = .stackUnderflow := by
  unfold State.popPair
  rcases h : s.ostack with _ | ⟨x, _ | ⟨y, rest⟩⟩ <;> simp [eq_comm]

theorem State.cpop_ok_iff (s s' : State) (a : Word) :
    s.cpop = .ok (a, s') ↔ ∃ rest, s.cstack = a :: rest ∧ s' = { s with cstack := rest } := by
  unfold State.cpop
  cases h : s.cstack <;> simp [eq_comm]

theorem State.cpop_error_iff (s : State) (c : TrapCause) :
    s.cpop = .error c ↔ s.cstack = [] ∧ c = .retEmpty := by
  unfold State.cpop
  cases h : s.cstack <;> simp [eq_comm]

/-! ### The checks on operands and capacities -/

theorem capacityFull_iff (c : Capacity) (n : Nat) :
    capacityFull c n = true ↔ c = .finite n := by
  cases c with
  | unbounded => simp [capacityFull]
  | finite m => simpa [capacityFull] using eq_comm

theorem State.ostackFull_iff (s : State) :
    s.ostackFull = true ↔ s.params.ostackDepth = .finite s.ostack.length := capacityFull_iff ..

theorem State.cstackFull_iff (s : State) :
    s.cstackFull = true ↔ s.params.cstackDepth = .finite s.cstack.length := capacityFull_iff ..

theorem State.requireTarget_eq (t : Word) (s : State) :
    s.requireTarget t = if s.codeLen ≤ u32 t then .error .invalidTarget else .ok () := rfl

theorem requireCell_eq (i : Word) :
    requireCell i = if 1024 ≤ u32 i then .error .memOutOfBounds else .ok () := rfl

theorem State.requireRoom_eq (s : State) :
    s.requireRoom = if s.ostackFull then .error .ostackOverflow else .ok () := rfl

theorem State.requireCallRoom_eq (s : State) :
    s.requireCallRoom = if s.cstackFull then .error .cstackOverflow else .ok () := rfl

/-! ### The shared courses of the ALU and of the conditional branches -/

/-- The two-operand course: below two entries it underflows; else the operation decides. -/
theorem State.binary_eq (op : Word → Word → Except TrapCause Word) (s : State) :
    s.binary op =
      match s.ostack with
      | b :: a :: rest =>
        match op a b with
        | .ok r => .ok { s with ostack := r :: rest }
        | .error c => .error c
      | _ => .error .stackUnderflow := by
  unfold State.binary State.popPair
  rcases h : s.ostack with _ | ⟨b, _ | ⟨a, rest⟩⟩
  · rfl
  · rfl
  · cases h' : op a b <;> simp [bind, Except.bind, h', State.push]

/-- The conditional branch: the target is checked first, then the depth, then the value decides. -/
theorem State.branchIf_eq (taken : Word → Bool) (t : Word) (s : State) :
    s.branchIf taken t =
      if s.codeLen ≤ u32 t then .error .invalidTarget
      else match s.ostack with
        | [] => .error .stackUnderflow
        | x :: rest => .ok { s with ostack := rest, pc := if taken x then t else s.pc } := by
  unfold State.branchIf
  rw [State.requireTarget_eq]
  split
  · rfl
  · cases h : s.ostack with
    | nil => simp [bind, Except.bind, State.pop, h]
    | cons x rest =>
      cases h' : taken x <;> simp [bind, Except.bind, State.pop, h, h', State.jump]

/-! ### The ALU's result range -/

theorem inI32_iff (r : Int) : inI32 r = true ↔ -2147483648 ≤ r ∧ r ≤ 2147483647 := by
  simp [inI32]

/-- The pattern of a value in `i32` reads back as the value. -/
theorem s32_bits32 {r : Int} (h : -2147483648 ≤ r ∧ r ≤ 2147483647) : s32 (bits32 r) = r := by
  simp only [s32, bits32, BitVec.toInt_ofInt]
  exact Int.bmod_eq_of_le (by omega) (by omega)

/-- `bits32(x)` is the pattern of `x mod 2^32` (R13). -/
theorem u32_bits32 (r : Int) : (u32 (bits32 r) : Int) = r % 4294967296 := by
  simp only [u32, bits32, BitVec.toNat_ofInt]
  have h : 0 ≤ r % (4294967296 : Int) := Int.emod_nonneg _ (by decide)
  simpa using h

theorem arithResult_eq (mode : OverflowMode) (r : Int) :
    arithResult mode r =
      if (-2147483648 ≤ r ∧ r ≤ 2147483647) ∨ mode = .wrap then .ok (bits32 r)
      else .error .arithOverflow := by
  unfold arithResult
  by_cases h : -2147483648 ≤ r ∧ r ≤ 2147483647
  · simp [(inI32_iff r).2 h, h]
  · have : inI32 r = false := by simpa using (fun h' => h ((inI32_iff r).1 h'))
    cases mode <;> simp [this, h]

end Sys2Proof.Machine
end

