-- ==== Sys2Proof/Laws/PerInstr.lean ====
section
/-! SUPPORT. Statements made for every instruction as syntax, one lemma per constructor (LAWS.json). -/

namespace Sys2Proof.Laws.EncodingLength

/-- The encoding of an instruction is as long as the instruction, 1 or 5 bytes (R70, R74). -/
def Statement (i : Instr) : Prop :=
  (encode i).length = i.size ∧ (i.size = 1 ∨ i.size = 5)

theorem push (v : Word) : Statement (.push v) := ⟨rfl, .inr rfl⟩
theorem pop : Statement .pop := ⟨rfl, .inl rfl⟩
theorem dup : Statement .dup := ⟨rfl, .inl rfl⟩
theorem add : Statement .add := ⟨rfl, .inl rfl⟩
theorem sub : Statement .sub := ⟨rfl, .inl rfl⟩
theorem mul : Statement .mul := ⟨rfl, .inl rfl⟩
theorem div : Statement .div := ⟨rfl, .inl rfl⟩
theorem cmp : Statement .cmp := ⟨rfl, .inl rfl⟩
theorem jmp (t : Word) : Statement (.jmp t) := ⟨rfl, .inr rfl⟩
theorem jz (t : Word) : Statement (.jz t) := ⟨rfl, .inr rfl⟩
theorem jnz (t : Word) : Statement (.jnz t) := ⟨rfl, .inr rfl⟩
theorem store (i : Word) : Statement (.store i) := ⟨rfl, .inr rfl⟩
theorem load (i : Word) : Statement (.load i) := ⟨rfl, .inr rfl⟩
theorem call (t : Word) : Statement (.call t) := ⟨rfl, .inr rfl⟩
theorem ret : Statement .ret := ⟨rfl, .inl rfl⟩
theorem print : Statement .print := ⟨rfl, .inl rfl⟩
theorem halt : Statement .halt := ⟨rfl, .inl rfl⟩

end Sys2Proof.Laws.EncodingLength
end

