-- ==== Sys2Proof/Laws/Run.lean ====
section
/-! SUPPORT. Runs of many steps, one step at a time, and the length check of LOAD. -/

namespace Sys2Proof

theorem imageLenWf_iff (n : Nat) : imageLenWf n = true ↔ n ≤ 4294967295 := by
  unfold imageLenWf
  rw [decide_eq_true_iff]
  rfl

namespace Machine

theorem stepsTo_zero_iff (s t : State) : StepsTo s 0 t ↔ s = t := by
  simp [StepsTo, stepN]

/-- A run of `k + 1` steps is a step and a run of `k`. -/
theorem stepsTo_succ_iff (k : Nat) (s t : State) :
    StepsTo s (k + 1) t ↔ ∃ u, step s = .next u ∧ StepsTo u k t := by
  simp only [StepsTo, stepN]
  cases step s <;> simp

/-- A run has at most one state after `k` steps. -/
theorem stepsTo_unique {k : Nat} {s t u : State} (h : StepsTo s k t) (h' : StepsTo s k u) : t = u := by
  unfold StepsTo at h h'
  rw [h] at h'
  exact Host.Outcome.next.inj h'

/-- A run of `j + k` steps is a run of `j` and then one of `k`. -/
theorem stepsTo_add_iff (j k : Nat) (s t : State) :
    StepsTo s (j + k) t ↔ ∃ u, StepsTo s j u ∧ StepsTo u k t := by
  induction j generalizing s with
  | zero => simp [stepsTo_zero_iff]
  | succ j ih =>
    rw [Nat.succ_add, stepsTo_succ_iff]
    simp only [ih, stepsTo_succ_iff]
    constructor
    · rintro ⟨v, hv, u, hu, ht⟩
      exact ⟨u, ⟨v, hv, hu⟩, ht⟩
    · rintro ⟨u, ⟨v, hv, hu⟩, ht⟩
      exact ⟨v, hv, u, hu, ht⟩

end Machine

end Sys2Proof
end

