-- ==== Sys2Proof/Tests/Slice0.lean ====
section
/-! SUPPORT. Small tests, each of one step or one word, with its expected result from the spec (the vector or rule is
named), and a witness for the hypotheses of every statement that has some. -/

namespace Sys2Proof.Tests

open Sys2Proof.Machine

/-- A state after LOAD of `image` but for the operand stack, given bottom to top as in R17. -/
def start (image : List Byte) (ostack : List Int) : State :=
  { State.reset with code := image, ostack := (ostack.map bits32).reverse }

/-- `start` with OSTACK_DEPTH and CSTACK_DEPTH both `n`. -/
def startCapped (n : Nat) (image : List Byte) (ostack : List Int) : State :=
  { start image ostack with
    params := { defaultParams with ostackDepth := .finite n, cstackDepth := .finite n } }

/-- `start` with both overflow modes set. -/
def startMode (m : OverflowMode) (image : List Byte) (ostack : List Int) : State :=
  { start image ostack with
    params := { defaultParams with arithOverflow := m, divOverflow := m } }

/-- The operand stack as a picture of R17, bottom to top. -/
def picture (s : State) : List Int := (s.ostack.map s32).reverse

/-- The answer is a next state of which `p` holds. -/
def gives (o : Host.Outcome State Fault Refusal) (p : State → Bool) : Bool :=
  match o with
  | .next t => p t
  | _ => false

/-- After the step: this `pc` and this operand stack, still running without a trap. -/
def runsTo (s : State) (pc : Nat) (ostack : List Int) : Bool :=
  gives (step s) fun t => t.running && t.trapCause == 0 && u32 t.pc == pc && picture t == ostack

/-- The step traps with this code and changes nothing else (R192, R193). -/
def trapsWith (s : State) (code : Nat) : Bool :=
  gives (step s) fun t => t == { s with running := false, trapCause := BitVec.ofNat 8 code }

/-! ### Well-formedness: each check refuses an ill-formed term -/

theorem test_wf_capacity : (Capacity.finite 0).wf = false ∧ (Capacity.finite 1).wf = true ∧
    Capacity.unbounded.wf = true := by decide

theorem test_wf_params : ({ defaultParams with cstackDepth := .finite 0 } : Params).wf = false ∧
    ({ defaultParams with ostackDepth := .finite 0 } : Params).wf = false ∧
    defaultParams.wf = true := by decide

theorem test_wf_image_length : imageLenWf 4294967296 = false ∧ imageLenWf 4294967295 = true := by
  decide

theorem test_wf_bytes : instrBytesWf [] = false ∧ instrBytesWf [0x00] = false ∧
    instrBytesWf [0x01, 0, 0] = false ∧ instrBytesWf [0x02, 0] = false ∧
    instrBytesWf [0x01, 0, 0, 0, 0] = true := by decide

theorem test_wf_memory : Memory.wf [(1024, 1)] = false ∧ Memory.wf [(3, 0)] = false ∧
    Memory.wf [(3, 1), (3, 2)] = false ∧ Memory.wf [(4, 1), (3, 2)] = false ∧
    Memory.wf [(0, 1), (1023, 2)] = true := by decide

/-! ### Decoding: a word of every constructor, written out from R71 and R75 -/

theorem test_decode_stack : decode [0x01, 0x12, 0x34, 0x56, 0x78] = .ok (.push 0x12345678) ∧
    decode [0x02] = .ok .pop ∧ decode [0x03] = .ok .dup := ⟨rfl, rfl, rfl⟩

theorem test_decode_alu : decode [0x10] = .ok .add ∧ decode [0x11] = .ok .sub ∧
    decode [0x12] = .ok .mul ∧ decode [0x13] = .ok .div ∧ decode [0x14] = .ok .cmp :=
  ⟨rfl, rfl, rfl, rfl, rfl⟩

theorem test_decode_branch : decode [0x20, 0x00, 0x00, 0x00, 0x0A] = .ok (.jmp 10) ∧
    decode [0x21, 0x00, 0x00, 0x00, 0x1B] = .ok (.jz 27) ∧
    decode [0x22, 0x80, 0x00, 0x00, 0x01] = .ok (.jnz 0x80000001) := ⟨rfl, rfl, rfl⟩

theorem test_decode_memory : decode [0x30, 0x00, 0x00, 0x03, 0xFF] = .ok (.store 1023) ∧
    decode [0x31, 0x00, 0x01, 0x00, 0x00] = .ok (.load 65536) := ⟨rfl, rfl⟩

theorem test_decode_call : decode [0x40, 0x00, 0x00, 0x00, 0x0B] = .ok (.call 11) ∧
    decode [0x41] = .ok .ret := ⟨rfl, rfl⟩

theorem test_decode_system : decode [0x50] = .ok .print ∧ decode [0xFF] = .ok .halt := ⟨rfl, rfl⟩

/-- V-DEC-2 to V-DEC-5, V-DEC-13, V-DEC-14 and V-DEC-8: illegal bytes, also before a missing operand. -/
theorem test_decode_illegal : decode [0x00] = .error (.unknownOpcode 0x00) ∧
    decode [0x04] = .error (.unknownOpcode 0x04) ∧ decode [0x15] = .error (.unknownOpcode 0x15) ∧
    decode [0xFE] = .error (.unknownOpcode 0xFE) ∧ decode [0x51] = .error (.unknownOpcode 0x51) ∧
    decode [0x42] = .error (.unknownOpcode 0x42) ∧
    decode [0xAB, 0x00] = .error (.unknownOpcode 0xAB) := ⟨rfl, rfl, rfl, rfl, rfl, rfl, rfl⟩

/-- V-DEC-7: three operand bytes are too few. -/
theorem test_decode_truncated : decode [0x01, 0x00, 0x00, 0x00] = .error .unexpectedEnd := rfl

/-- No two rows of the opcode map share a byte. -/
theorem test_opcode_map_no_overlap :
    opcodeTable.Pairwise (fun r r' => r.1 ≠ r'.1 ∧ r.2 ≠ r'.2) := by decide

/-- R71: the table numbers an F5 instruction as one big-endian 40-bit number. -/
theorem test_table_words : decodeTableWord 40 0x010000002A = some (.push 42) ∧
    decodeTableWord 40 0x3000000000 = some (.store 0) ∧ decodeTableWord 8 0x13 = some .div ∧
    decodeTableWord 8 0x01 = some (.push 0) ∧ decodeTableWord 8 0x00 = none := by decide

/-- A row's word runs as the first instruction after reset: HALT stops, PUSH 42 pushes. -/
theorem test_fetch_word :
    gives (step (State.reset.withFetchWord 8 0xFF)) (fun t => !t.running && u32 t.pc == 1) = true ∧
    runsTo (State.reset.withFetchWord 40 0x010000002A) 5 [42] = true := by decide

/-! ### One step of each instruction -/

/-- V-ST-4 and V-ST-6. -/
theorem test_push : runsTo (start [0x01, 0x7F, 0xFF, 0xFF, 0xFF] [5]) 5 [5, 2147483647] = true := by
  decide
theorem test_push_full : trapsWith (startCapped 2 [0x01, 0, 0, 0, 3] [1, 2]) 9 = true := by decide

/-- V-ST-7 and V-ST-8. -/
theorem test_pop : runsTo (start [0x02] [1, 2]) 1 [1] = true := by decide
theorem test_pop_empty : trapsWith (start [0x02] []) 1 = true := by decide

/-- V-ST-9 and V-ST-12. -/
theorem test_dup : runsTo (start [0x03] [4, 7]) 1 [4, 7, 7] = true := by decide
theorem test_dup_empty : trapsWith (startCapped 2 [0x03] []) 1 = true := by decide

/-- V-ALU-3 and V-ALU-8. -/
theorem test_add_wraps : runsTo (start [0x10] [2147483647, 1]) 1 [-2147483648] = true := by decide
theorem test_add_traps : trapsWith (startMode .trap [0x10] [2147483647, 1]) 8 = true := by decide

/-- V-ALU-10 and V-ALU-12. -/
theorem test_sub_order : runsTo (start [0x11] [9, 3, 10]) 1 [9, -7] = true := by decide
theorem test_sub_wraps : runsTo (start [0x11] [0, -2147483648]) 1 [-2147483648] = true := by decide

/-- V-ALU-16 and V-ALU-19. -/
theorem test_mul_signed : runsTo (start [0x12] [-3, 7]) 1 [-21] = true := by decide
theorem test_mul_wraps : runsTo (start [0x12] [46341, 46341]) 1 [-2147479015] = true := by decide

/-- V-ALU-25 and V-ALU-35. -/
theorem test_div_toward_zero : runsTo (start [0x13] [-7, 2]) 1 [-3] = true := by decide
theorem test_div_overflow : trapsWith (start [0x13] [-2147483648, -1]) 8 = true := by decide

/-- V-ALU-42 and V-ALU-43. -/
theorem test_cmp_less : runsTo (start [0x14] [-2147483648, 1]) 1 [-1] = true := by decide
theorem test_cmp_greater : runsTo (start [0x14] [2147483647, -1]) 1 [1] = true := by decide

/-- V-BR-6 with N = 6, and V-BR-3. -/
theorem test_jmp_last : runsTo (start [0x20, 0, 0, 0, 5, 0xFF] []) 5 [] = true := by decide
theorem test_jmp_end : trapsWith (start [0x20, 0, 0, 0, 5] []) 4 = true := by decide

/-- V-BR-13 with a nearer target, and V-BR-16. -/
theorem test_jz_taken : runsTo (start [0x21, 0, 0, 0, 2] [9, 0]) 2 [9] = true := by decide
theorem test_jz_bad_target_untaken : trapsWith (start [0x21, 0, 0, 0, 0x28] [5]) 4 = true := by
  decide

/-- V-BR-20 and V-BR-19 with a nearer target. -/
theorem test_jnz_taken : runsTo (start [0x22, 0, 0, 0, 2] [-2147483648]) 2 [] = true := by decide
theorem test_jnz_untaken : runsTo (start [0x22, 0, 0, 0, 2] [0]) 5 [] = true := by decide

/-- V-MEM-2 and V-MEM-6. -/
theorem test_store_last : gives (step (start [0x30, 0, 0, 3, 0xFF] [8, -1]))
    (fun t => picture t == [8] && s32 (t.readCell 1023) == -1 && u32 t.pc == 5) = true := by decide
theorem test_store_index_first : trapsWith (start [0x30, 0, 0, 7, 0xD0] []) 3 = true := by decide

/-- V-MEM-9 and V-MEM-14. -/
theorem test_load : runsTo { start [0x31, 0, 0, 0, 10] [1] with mem := [(10, 7)] } 5 [1, 7] = true := by
  decide
theorem test_load_index_first : trapsWith (startCapped 2 [0x31, 0, 0, 4, 0] [1, 2]) 3 = true := by
  decide

/-- V-CALL-2 with a nearer target, and V-CALL-4. -/
theorem test_call : gives (step { start [0x40, 0, 0, 0, 2] [1] with cstack := [3] })
    (fun t => t.cstack == [5, 3] && u32 t.pc == 2 && picture t == [1]) = true := by decide
theorem test_call_full : trapsWith { startCapped 1 [0x40, 0, 0, 0, 2] [] with cstack := [3] } 10 = true := by
  decide

/-- V-CALL-8 and V-CALL-9. -/
theorem test_ret : gives (step { start [0x41] [4] with cstack := [17, 5] })
    (fun t => t.cstack == [5] && u32 t.pc == 17 && picture t == [4]) = true := by decide
theorem test_ret_empty : trapsWith (start [0x41] []) 6 = true := by decide

/-- V-SYS-1 and V-SYS-2. -/
theorem test_print : gives (step { start [0x50] [1, -5] with out := [2] })
    (fun t => t.out.map s32 == [2, -5] && picture t == [1] && u32 t.pc == 1) = true := by decide
theorem test_print_empty : trapsWith (start [0x50] []) 1 = true := by decide

/-- V-SYS-4 and V-SYS-5. -/
theorem test_halt : gives (step (start [0xFF] [3, 4]))
    (fun t => !t.running && t.trapCause == 0 && u32 t.pc == 1 && s32 t.result == 4) = true := by decide
theorem test_halted_stays : gives (step { start [0xFF, 0xFF] [3] with running := false, pc := 1 })
    (fun t => t == { start [0xFF, 0xFF] [3] with running := false, pc := 1 }) = true := by decide

/-! ### Commands -/

/-- V-RST-3 and V-RST-4: RESET of a trapped state clears `trap_cause` and keeps the print history. -/
theorem test_reset_command :
    ({ start [0x13] [1, 0] with running := false, trapCause := 2, out := [3] } : State).resetCommand =
      { start [0x13] [] with out := [3] } := by decide

/-- V-RST-5. -/
theorem test_load_command :
    gives (({ start [0x13] [1] with pc := 1 } : State).load [0xFF]) (fun t => t == start [0xFF] []) =
      true := by decide

/-- R226: RUN answers a normal end, a fault for a trap, and refuses for want of fuel. -/
theorem test_run_ended : runCommand 1 (start [0x02] [1]) =
    .next { start [0x02] [] with pc := 1 } := rfl
theorem test_run_trapped : runCommand 1 (start [0x02] []) = .fault (.trapped 1) := rfl
theorem test_run_out_of_fuel : runCommand 0 (start [0x02] []) = .refused .outOfFuel := rfl

/-- V-DEC-1: the empty image has ended at once. -/
theorem test_reset_has_ended : State.reset.endKind = some .ended ∧
    step State.reset = .next State.reset := ⟨rfl, rfl⟩

/-! ### Witnesses: states and operands that meet the hypotheses of the statements -/

/-- The instruction's five bytes with one byte missing and with none missing, at the same `pc`. -/
def truncated : State := start [0x01, 0, 0, 0] []
def complete : State := start [0x01, 0, 0, 0, 7] []

theorem witness_DecodeOfEncodeIsTheInstruction : (Instr.push 7).wf = true := rfl

theorem witness_DecodedBytesAreTheEncoding : decode [0x02, 0x03] = .ok .pop := rfl

theorem witness_StepRunsTheDecodedInstruction : complete.active = true ∧
    decode (complete.code.drop (u32 complete.pc)) = .ok (.push 7) ∧ (Instr.push 7).wf = true :=
  ⟨rfl, rfl, rfl⟩

theorem witness_StoppedCoreKeepsItsState :
    ({ complete with running := false } : State).running = false ∧
    ({ complete with pc := 5 } : State).codeLen ≤ u32 ({ complete with pc := 5 } : State).pc := by
  decide

theorem witness_IllegalOpcodeBytesTrap :
    ((start [0x04] []).active = true ∧ (start [0x04] []).code[0]? = some 0x04 ∧
      isIllegalByte 0x04) ∧
    ((start [0xFF] []).active = true ∧ (start [0xFF] []).code[0]? = some 0xFF ∧
      ¬ isIllegalByte 0xFF ∧
      ∃ t, step { start [0xFF] [] with trapCause := 7 } = .next t ∧ t.trapCause = 7) :=
  ⟨⟨rfl, rfl, .inr (.inl (by decide))⟩, rfl, rfl, by unfold isIllegalByte; decide, _, rfl, rfl⟩

theorem witness_TruncatedOperandTraps :
    (truncated.active = true ∧ truncated.code[0]? = some 0x01 ∧ truncated.codeLen < 0 + 5) ∧
    (complete.active = true ∧ complete.code[0]? = some 0x01 ∧ ¬ complete.codeLen < 0 + 5 ∧
      ∃ t, step { complete with trapCause := 5 } = .next t ∧ t.trapCause = 5) :=
  ⟨⟨rfl, rfl, by decide⟩, rfl, rfl, by decide, _, rfl, rfl⟩

/-- `RunsF5`: one byte missing, and all four there. -/
theorem witness_RunsF5 :
    (truncated.active = true ∧ truncated.code[u32 truncated.pc]? = some 0x01 ∧
      truncated.codeLen < u32 truncated.pc + 5) ∧
    (complete.active = true ∧ complete.code[u32 complete.pc]? = some 0x01 ∧
      complete.code[u32 complete.pc + 1]? = some 0 ∧ complete.code[u32 complete.pc + 2]? = some 0 ∧
      complete.code[u32 complete.pc + 3]? = some 0 ∧ complete.code[u32 complete.pc + 4]? = some 7 ∧
      (7 : Word).toNat = (0 : Byte).toNat * 16777216 + (0 : Byte).toNat * 65536 +
        (0 : Byte).toNat * 256 + (7 : Byte).toNat) := by decide

/-- `RunsF1`: an active core at a one-byte opcode. -/
theorem witness_RunsF1 : (start [0x10] []).active = true ∧
    (start [0x10] []).code[u32 (start [0x10] []).pc]? = some 0x10 := by decide

/-- One short of full, and full: PUSH, DUP and LOAD. -/
theorem witness_operand_stack_room :
    (startCapped 2 [] [1]).params.ostackDepth ≠ .finite (startCapped 2 [] [1]).ostack.length ∧
    (startCapped 2 [] [1, 2]).params.ostackDepth =
      .finite (startCapped 2 [] [1, 2]).ostack.length := by decide

theorem witness_PushPushesItsOperand :
    (startCapped 2 [] [1]).params.ostackDepth ≠ .finite (startCapped 2 [] [1]).ostack.length ∧
    (startCapped 2 [] [1, 2]).params.ostackDepth =
      .finite (startCapped 2 [] [1, 2]).ostack.length := witness_operand_stack_room

theorem witness_PopDiscardsTheTop : (start [] [1]).ostack = 1 :: [] ∧ (start [] []).ostack = [] := by
  decide

theorem witness_DupCopiesTheTop :
    ((startCapped 2 [] [1]).ostack = 1 :: [] ∧
      (startCapped 2 [] [1]).params.ostackDepth ≠ .finite (startCapped 2 [] [1]).ostack.length) ∧
    ((startCapped 1 [] [1]).ostack = 1 :: [] ∧
      (startCapped 1 [] [1]).params.ostackDepth = .finite (startCapped 1 [] [1]).ostack.length) ∧
    (start [] []).ostack = [] := by decide

/-- `PushesExactResult` for ADD: a short stack, the greatest result in range, the first outside it in both
modes. -/
theorem witness_AddPushesTheSum :
    (start [] [3]).ostack.length < 2 ∧
    ((start [] [2147483646, 1]).ostack = 1 :: 2147483646 :: [] ∧
      -2147483648 ≤ (2147483646 : Word).toInt + (1 : Word).toInt ∧
      (2147483646 : Word).toInt + (1 : Word).toInt ≤ 2147483647) ∧
    ((startMode .wrap [] [2147483647, 1]).ostack = 1 :: 2147483647 :: [] ∧
      2147483647 < (2147483647 : Word).toInt + (1 : Word).toInt ∧
      (startMode .wrap [] [2147483647, 1]).params.arithOverflow = .wrap ∧
      (startMode .trap [] [2147483647, 1]).params.arithOverflow = .trap) := by decide

theorem witness_SubPushesTheDifference :
    (start [] [3]).ostack.length < 2 ∧
    ((start [] [-2147483647, 1]).ostack = 1 :: bits32 (-2147483647) :: [] ∧
      -2147483648 ≤ (bits32 (-2147483647)).toInt - (1 : Word).toInt ∧
      (bits32 (-2147483647)).toInt - (1 : Word).toInt ≤ 2147483647) ∧
    ((startMode .trap [] [-2147483648, 1]).ostack = 1 :: bits32 (-2147483648) :: [] ∧
      (bits32 (-2147483648)).toInt - (1 : Word).toInt < -2147483648 ∧
      (startMode .wrap [] [-2147483648, 1]).params.arithOverflow = .wrap ∧
      (startMode .trap [] [-2147483648, 1]).params.arithOverflow = .trap) := by decide

theorem witness_MulPushesTheProduct :
    (start [] []).ostack.length < 2 ∧
    ((start [] [-3, 7]).ostack = 7 :: bits32 (-3) :: [] ∧
      -2147483648 ≤ (bits32 (-3)).toInt * (7 : Word).toInt ∧
      (bits32 (-3)).toInt * (7 : Word).toInt ≤ 2147483647) ∧
    ((startMode .trap [] [65536, 65536]).ostack = 65536 :: 65536 :: [] ∧
      2147483647 < (65536 : Word).toInt * (65536 : Word).toInt ∧
      (startMode .wrap [] [65536, 65536]).params.arithOverflow = .wrap ∧
      (startMode .trap [] [65536, 65536]).params.arithOverflow = .trap) := by decide

theorem witness_DivPushesTheTruncatedQuotient :
    (start [] [0]).ostack.length < 2 ∧
    ((start [] [5, 0]).ostack = 0 :: 5 :: [] ∧ (0 : Word).toInt = 0) ∧
    ((startMode .trap [] [-2147483648, -1]).ostack = bits32 (-1) :: bits32 (-2147483648) :: [] ∧
      (bits32 (-2147483648)).toInt = -2147483648 ∧ (bits32 (-1)).toInt = -1 ∧
      (startMode .trap [] [-2147483648, -1]).params.divOverflow = .trap ∧
      (startMode .wrap [] [-2147483648, -1]).params.divOverflow = .wrap) ∧
    ((start [] [2147483647, -1]).ostack = bits32 (-1) :: 2147483647 :: [] ∧ (bits32 (-1)).toInt ≠ 0 ∧
      ¬ ((2147483647 : Word).toInt = -2147483648 ∧ (bits32 (-1)).toInt = -1)) := by decide

theorem witness_DivLeavesARemainderOfTheDividendsSign :
    (start [] [-7, 2]).ostack = 2 :: bits32 (-7) :: [] ∧ (2 : Word).toInt ≠ 0 ∧
    ¬ ((bits32 (-7)).toInt = -2147483648 ∧ (2 : Word).toInt = -1) ∧
    ∃ t, exec .div (start [] [-7, 2]) = .next t ∧ t.ostack = bits32 (-3) :: [] :=
  ⟨by decide, by decide, by decide, _, rfl, by decide⟩

theorem witness_CmpPushesTheExactSign : (start [] [5, 2]).ostack = 2 :: 5 :: [] ∧
    (start [] [3]).ostack.length < 2 := by decide

/-- The last valid target `N - 1` and the first invalid one `N`: JMP, JZ, JNZ and CALL. -/
theorem witness_JmpSetsThePc : (4 : Word).toNat < complete.codeLen ∧
    complete.codeLen ≤ (5 : Word).toNat := by decide

theorem witness_JzJumpsOnZero : complete.codeLen ≤ (5 : Word).toNat ∧
    ((4 : Word).toNat < complete.codeLen ∧ complete.ostack = []) ∧
    ((4 : Word).toNat < (start [0x21, 0, 0, 0, 4] [0]).codeLen ∧
      (start [0x21, 0, 0, 0, 4] [0]).ostack = 0 :: []) := by decide

theorem witness_JnzJumpsOnNonzero : complete.codeLen ≤ (5 : Word).toNat ∧
    ((4 : Word).toNat < complete.codeLen ∧ complete.ostack = []) ∧
    ((4 : Word).toNat < (start [0x22, 0, 0, 0, 4] [1]).codeLen ∧
      (start [0x22, 0, 0, 0, 4] [1]).ostack = 1 :: []) := by decide

/-- The last cell 1023 and the first index outside, 1024. -/
theorem witness_StoreWritesItsCell : 1024 ≤ u32 (1024 : Word) ∧
    (u32 (1023 : Word) < 1024 ∧ (start [] []).ostack = []) ∧
    (u32 (1023 : Word) < 1024 ∧ (start [] [7]).ostack = 7 :: [] ∧
      Memory.wf (start [] [7]).mem = true) := by decide

theorem witness_LoadPushesItsCell : 1024 ≤ u32 (1024 : Word) ∧
    (u32 (1023 : Word) < 1024 ∧ (startCapped 2 [] [1, 2]).params.ostackDepth =
      .finite (startCapped 2 [] [1, 2]).ostack.length) ∧
    (u32 (1023 : Word) < 1024 ∧ (startCapped 2 [] [1]).params.ostackDepth ≠
      .finite (startCapped 2 [] [1]).ostack.length) := by decide

/-- A call stack of one entry, with capacity one and with capacity two. -/
def calledFull : State := { startCapped 1 [0x40, 0, 0, 0, 4] [] with cstack := [3] }
def calledRoom : State := { startCapped 2 [0x40, 0, 0, 0, 4] [] with cstack := [3] }

theorem witness_CallPushesTheReturnAddress : calledRoom.codeLen ≤ (5 : Word).toNat ∧
    ((4 : Word).toNat < calledFull.codeLen ∧
      calledFull.params.cstackDepth = .finite calledFull.cstack.length) ∧
    ((4 : Word).toNat < calledRoom.codeLen ∧
      calledRoom.params.cstackDepth ≠ .finite calledRoom.cstack.length) := by decide

theorem witness_RetPopsThePc : calledRoom.cstack = 3 :: [] ∧ (start [] []).cstack = [] := by decide

theorem witness_PrintEmitsTheTop : (start [] [1]).ostack = 1 :: [] ∧ (start [] []).ostack = [] := by
  decide

theorem witness_TrapsArePrecise :
    (∃ t, (start [0x02] []).running = true ∧ step (start [0x02] []) = .next t ∧ t.running = false) ∧
    (∃ t, (start [0xFF] []).running = true ∧ step (start [0xFF] []) = .next t ∧ t.running = false) :=
  ⟨⟨_, rfl, rfl, rfl⟩, ⟨_, rfl, rfl, rfl⟩⟩

theorem witness_TooFewEntriesUnderflow :
    ((start [] [1]).ostack.length < entriesNeeded .add ∧ operandInRange .add (start [] [1])) ∧
    (complete.ostack.length < entriesNeeded (.jz 4) ∧ operandInRange (.jz 4) complete) ∧
    (complete.ostack.length < entriesNeeded (.store 1023) ∧
      operandInRange (.store 1023) complete) ∧
    (entriesNeeded .pop ≤ (start [] [1]).ostack.length ∧
      ∃ t, exec .pop { start [] [1] with trapCause := 1 } = .next t ∧ t.trapCause = 1) :=
  ⟨⟨by decide, trivial⟩, ⟨by decide, by unfold operandInRange; decide⟩,
    ⟨by decide, by unfold operandInRange; decide⟩, by decide, _, rfl, rfl⟩

theorem witness_ChecksComeInTheirOrder :
    ((start [0xAB, 0] []).active = true ∧
      (start [0xAB, 0] []).code[u32 (start [0xAB, 0] []).pc]? = some 0xAB ∧ isIllegalByte 0xAB ∧
      (start [0xAB, 0] []).codeLen < u32 (start [0xAB, 0] []).pc + 5) ∧
    (complete.codeLen ≤ (5 : Word).toNat ∧ complete.ostack = []) ∧
    (1024 ≤ (1024 : Word).toNat ∧ complete.ostack = []) ∧
    (1024 ≤ (1024 : Word).toNat ∧ (startCapped 2 [] [1, 2]).params.ostackDepth =
      .finite (startCapped 2 [] [1, 2]).ostack.length) ∧
    (calledFull.codeLen ≤ (5 : Word).toNat ∧
      calledFull.params.cstackDepth = .finite calledFull.cstack.length) ∧
    (start [] [0]).ostack = [0] ∧ (start [] [5, 0]).ostack = 0 :: 5 :: [] :=
  ⟨⟨rfl, rfl, by unfold isIllegalByte; decide, by decide⟩, by decide, by decide, by decide, by decide,
    by decide, by decide⟩

theorem witness_CodeIsImmutable : (∃ t, step complete = .next t) ∧
    ∃ t, complete.load [0xFF] = .next t := ⟨⟨_, rfl⟩, ⟨_, rfl⟩⟩

theorem witness_ParametersNeverChange : (∃ t, step complete = .next t) ∧
    ∃ t, complete.load [0xFF] = .next t := witness_CodeIsImmutable

theorem witness_StatusIsWrittenOnlyByHaltAndTraps : (∃ t, exec .pop (start [] [1]) = .next t) ∧
    ∃ t, complete.load [0xFF] = .next t := ⟨⟨_, rfl⟩, ⟨_, rfl⟩⟩

theorem witness_OnlyStoreWritesAndOnlyLoadReadsMemory :
    ((∀ k, Instr.load 3 ≠ .store k) ∧ ∃ t, exec (.load 3) (start [] []) = .next t) ∧
    ((∀ k, Instr.pop ≠ .load k) ∧ (∀ k, Instr.pop ≠ .store k) ∧
      ∃ t, exec .pop (start [] [1]) = .next t) ∧
    ∃ t, complete.load [0xFF] = .next t :=
  ⟨⟨by simp, _, rfl⟩, ⟨by simp, by simp, _, rfl⟩, _, rfl⟩

theorem witness_OnlyPrintAppendsToThePort : ∃ t, step (start [0x50] [1]) = .next t ∧ t.out = [1] :=
  ⟨_, rfl, by decide⟩

theorem witness_OnlyTheTopOfTheOperandStackChanges : ∃ t, exec .dup (start [] [1]) = .next t :=
  ⟨_, rfl⟩

theorem witness_OnlyCallAndRetTouchTheCallStack :
    (∃ t, exec .ret calledRoom = .next t) ∧ ∃ t, exec (.call 4) calledRoom = .next t :=
  ⟨⟨_, rfl⟩, ⟨_, rfl⟩⟩

theorem witness_PcFollowsTheTable : (∃ t, exec (.jz 4) (start [0, 0, 0, 0, 0] [0]) = .next t) ∧
    ∃ t, exec .pop (start [] []) = .next t := ⟨⟨_, rfl⟩, ⟨_, rfl⟩⟩

theorem witness_RetReturnsBehindTheCall : (4 : Word).toNat < calledRoom.codeLen ∧
    calledRoom.params.cstackDepth ≠ .finite calledRoom.cstack.length ∧
    ∃ u v : State, exec (.call 4) calledRoom = .next u ∧ v.cstack = u.cstack :=
  ⟨by decide, by decide, _, _, rfl, rfl⟩

theorem witness_CanonicalMemoriesThatReadAlikeAreEqual :
    Memory.wf (Memory.write [(3, 1)] 5 2) = true ∧ Memory.wf [(3, 1), (5, 2)] = true ∧
    ∀ j, Memory.read (Memory.write [(3, 1)] 5 2) j = Memory.read [(3, 1), (5, 2)] j :=
  ⟨by decide, by decide, fun _ => rfl⟩

/-- A run of one step with no STORE to cell 3, and one with a STORE to it. -/
theorem witness_CellHoldsTheMostRecentStore :
    (Memory.wf (start [0x02] [1]).mem = true ∧ ∃ t, StepsTo (start [0x02] [1]) 1 t) ∧
    (Memory.wf (start [0x30, 0, 0, 0, 3] [1]).mem = true ∧
      StoresTo (start [0x30, 0, 0, 0, 3] [1]) 3 1 ∧ ∃ t, StepsTo (start [0x30, 0, 0, 0, 3] [1]) 1 t) :=
  ⟨⟨rfl, _, rfl⟩, rfl, ⟨rfl, by decide, rfl, 3, rfl, rfl⟩, _, rfl⟩

theorem witness_LoadInstallsTheImage :
    (List.replicate 4294967295 (0 : Byte)).length ≤ 4294967295 := by
  rw [List.length_replicate]

theorem witness_LoadRefusesALongerImage :
    4294967295 < (List.replicate 4294967296 (0 : Byte)).length := by
  rw [List.length_replicate]
  decide

/-- The invariants hold in a state that is not the reset state: both stacks full, a return address of
`N`. -/
theorem inv_calledFull : ({ calledFull with cstack := [5], ostack := [7] } : State).Inv where
  codeLen_le := by
    change 5 ≤ 4294967295
    omega
  pc_le := by decide
  cstack_le := by
    intro e he
    rw [List.mem_singleton.1 he]
    decide
  ostack_fits := Nat.le_refl 1
  cstack_fits := Nat.le_refl 1
  running_no_trap := by decide
  trapCause_le := by decide
  mem_wf := by decide

theorem witness_InvariantsHoldAfterLoadAndReset : (∃ t, complete.load [0xFF] = .next t) ∧
    complete.codeLen ≤ 4294967295 := ⟨⟨_, rfl⟩, by decide⟩

theorem witness_EveryStepKeepsTheInvariants : ∃ s t : State, s.Inv ∧ step s = .next t :=
  ⟨_, _, inv_calledFull, rfl⟩

theorem witness_PcNeverWraps : ∃ (s : State) (i : Instr), s.Inv ∧ s.active = true ∧ s.fetch = .ok i :=
  ⟨_, _, inv_calledFull, rfl, rfl⟩

/-- The three end conditions, each in a state with the invariants. -/
theorem witness_StoppedCoreHasOneEndKind :
    ∃ s : State, s.Inv ∧ s.active = false ∧ s.running = false ∧ s.trapCause = 0 :=
  ⟨{ calledFull with cstack := [5], ostack := [7], running := false },
    { inv_calledFull with running_no_trap := by decide }, by decide, by decide, by decide⟩

theorem witness_StoppedCoreHasOneEndKind_trapped :
    ∃ s : State, s.Inv ∧ s.active = false ∧ s.running = false ∧ s.trapCause ≠ 0 :=
  ⟨{ calledFull with cstack := [5], ostack := [7], running := false, trapCause := 10 },
    { inv_calledFull with running_no_trap := by decide, trapCause_le := by decide },
    by decide, by decide, by decide⟩

theorem witness_StoppedCoreHasOneEndKind_ended :
    ∃ s : State, s.Inv ∧ s.active = false ∧ s.running = true ∧ u32 s.pc = s.codeLen :=
  ⟨{ calledFull with cstack := [5], ostack := [7], pc := 5 },
    { inv_calledFull with pc_le := by decide }, by decide, by decide, by decide⟩

theorem witness_RunsAfterResetRepeatRunsAfterLoad :
    ∃ s l t old : State, s.load s.code = .next l ∧ StepsTo l 1 t ∧ old.code = s.code ∧
      old.params = s.params ∧ old.out ≠ s.out :=
  ⟨complete, _, _, { complete with out := [3] }, rfl, rfl, rfl, rfl, by decide⟩

theorem witness_ResultIsTheTopOrZero : (start [] [3, 4]).ostack = 4 :: [3] ∧
    (start [] []).ostack = [] := by decide

end Sys2Proof.Tests
end

section
/-! What a step can do, once: the effect of each instruction that runs to its end, and the three ways in which a
step answers a next state (30_encoding.md R80 to R84). -/

namespace Sys2Proof.Machine

/-! ### When the shared operations answer -/

/-- A rule of two parts answers exactly when both parts do. -/
theorem except_bind_ok_iff {ε α β : Type} (x : Except ε α) (f : α → Except ε β) (y : β) :
    (x >>= f) = .ok y ↔ ∃ a, x = .ok a ∧ f a = .ok y := by
  cases x <;> simp [bind, Except.bind]

theorem State.requireTarget_ok_iff (t : Word) (s : State) (u : Unit) :
    s.requireTarget t = .ok u ↔ u32 t < s.codeLen := by
  rw [State.requireTarget_eq]
  split <;> simp <;> omega

theorem requireCell_ok_iff (k : Word) (u : Unit) : requireCell k = .ok u ↔ u32 k < 1024 := by
  rw [requireCell_eq]
  split <;> simp <;> omega

theorem State.requireRoom_ok_iff (s : State) (u : Unit) :
    s.requireRoom = .ok u ↔ s.ostackFull = false := by
  rw [State.requireRoom_eq]
  split <;> simp_all

theorem State.requireCallRoom_ok_iff (s : State) (u : Unit) :
    s.requireCallRoom = .ok u ↔ s.cstackFull = false := by
  rw [State.requireCallRoom_eq]
  split <;> simp_all

theorem State.binary_ok_iff (op : Word → Word → Except TrapCause Word) (s t : State) :
    s.binary op = .ok t ↔
      ∃ a b rest r, s.ostack = b :: a :: rest ∧ op a b = .ok r ∧
        t = { s with ostack := r :: rest } := by
  simp only [State.binary, except_bind_ok_iff, Prod.exists, State.popPair_ok_iff]
  constructor
  · rintro ⟨a, b, _, ⟨rest, hstack, rfl⟩, r, hop, ⟨⟩⟩
    exact ⟨a, b, rest, r, hstack, hop, rfl⟩
  · rintro ⟨a, b, rest, r, hstack, hop, rfl⟩
    exact ⟨a, b, _, ⟨rest, hstack, rfl⟩, r, hop, rfl⟩

theorem State.branchIf_ok_iff (taken : Word → Bool) (w : Word) (s t : State) :
    s.branchIf taken w = .ok t ↔
      u32 w < s.codeLen ∧ ∃ x rest, s.ostack = x :: rest ∧
        t = { s with ostack := rest, pc := if taken x then w else s.pc } := by
  rw [State.branchIf_eq, ← not_le]
  by_cases hle : s.codeLen ≤ u32 w
  · simp [hle]
  · cases hstack : s.ostack with
    | nil => simp [hle]
    | cons x rest => simp [hle, eq_comm (a := t)]

/-! ### What an instruction does -/

/-- `Completes i s t`: in `s` the instruction `i` passes every check of its rule, and `t` is the state
its writes make of `s`; what `t` does not name, it has from `s`. -/
inductive Completes : Instr → State → State → Prop
  | push {v s} : s.ostackFull = false →
      Completes (.push v) s { s with pc := s.pc + 5, ostack := v :: s.ostack }
  | pop {s x rest} : s.ostack = x :: rest →
      Completes .pop s { s with pc := s.pc + 1, ostack := rest }
  | dup {s x rest} : s.ostack = x :: rest → s.ostackFull = false →
      Completes .dup s { s with pc := s.pc + 1, ostack := x :: s.ostack }
  | add {s a b r rest} : s.ostack = b :: a :: rest →
      arithResult s.params.arithOverflow (s32 a + s32 b) = .ok r →
      Completes .add s { s with pc := s.pc + 1, ostack := r :: rest }
  | sub {s a b r rest} : s.ostack = b :: a :: rest →
      arithResult s.params.arithOverflow (s32 a - s32 b) = .ok r →
      Completes .sub s { s with pc := s.pc + 1, ostack := r :: rest }
  | mul {s a b r rest} : s.ostack = b :: a :: rest →
      arithResult s.params.arithOverflow (s32 a * s32 b) = .ok r →
      Completes .mul s { s with pc := s.pc + 1, ostack := r :: rest }
  | div {s a b r rest} : s.ostack = b :: a :: rest →
      divResult s.params.divOverflow a b = .ok r →
      Completes .div s { s with pc := s.pc + 1, ostack := r :: rest }
  | cmp {s a b rest} : s.ostack = b :: a :: rest →
      Completes .cmp s { s with pc := s.pc + 1, ostack := cmpResult a b :: rest }
  | jmp {w s} : u32 w < s.codeLen → Completes (.jmp w) s { s with pc := w }
  | jz {w s x rest} : u32 w < s.codeLen → s.ostack = x :: rest →
      Completes (.jz w) s { s with pc := if x == 0 then w else s.pc + 5, ostack := rest }
  | jnz {w s x rest} : u32 w < s.codeLen → s.ostack = x :: rest →
      Completes (.jnz w) s { s with pc := if x != 0 then w else s.pc + 5, ostack := rest }
  | store {k s x rest} : u32 k < 1024 → s.ostack = x :: rest →
      Completes (.store k) s
        { s with pc := s.pc + 5, ostack := rest, mem := Memory.write s.mem (u32 k) x }
  | load {k s} : u32 k < 1024 → s.ostackFull = false →
      Completes (.load k) s { s with pc := s.pc + 5, ostack := s.readCell (u32 k) :: s.ostack }
  | call {w s} : u32 w < s.codeLen → s.cstackFull = false →
      Completes (.call w) s { s with pc := w, cstack := (s.pc + 5) :: s.cstack }
  | ret {s a rest} : s.cstack = a :: rest →
      Completes .ret s { s with pc := a, cstack := rest }
  | print {s x rest} : s.ostack = x :: rest →
      Completes .print s { s with pc := s.pc + 1, ostack := rest, out := s.out ++ [x] }
  | halt {s} : Completes .halt s { s with pc := s.pc + 1, running := false }

/-- The two-operand course completes `i` when its write does. -/
theorem State.completes_of_binary_ok {i : Instr} {s : State}
    {op : Word → Word → Except TrapCause Word}
    (hwrite : ∀ {a b r rest}, s.ostack = b :: a :: rest → op a b = .ok r →
      Completes i s { s with pc := s.pc + 1, ostack := r :: rest })
    (u : State) (hu : (s.advance 1).binary op = .ok u) : Completes i s u := by
  obtain ⟨a, b, rest, r, hstack, hop, rfl⟩ := (State.binary_ok_iff _ _ _).1 hu
  exact hwrite hstack hop

/-- The course of the conditional branches completes `i` when its write does. -/
theorem State.completes_of_branchIf_ok {i : Instr} {s : State} {taken : Word → Bool} {w : Word}
    (hwrite : ∀ {x rest}, u32 w < s.codeLen → s.ostack = x :: rest →
      Completes i s { s with pc := if taken x then w else s.pc + 5, ostack := rest })
    (u : State) (hu : (s.advance 5).branchIf taken w = .ok u) : Completes i s u := by
  obtain ⟨htarget, x, rest, hstack, rfl⟩ := (State.branchIf_ok_iff _ _ _ _).1 hu
  exact hwrite htarget hstack

/-- Every instruction commits a rule, and the rule answers only with the instruction completed. -/
theorem exec_eq_commit (i : Instr) (s : State) :
    ∃ r, exec i s = s.commit r ∧ ∀ u, r = .ok u → Completes i s u := by
  cases i with
  | push v =>
    refine ⟨_, rfl, fun u hu => ?_⟩
    simp only [except_bind_ok_iff, State.requireRoom_ok_iff] at hu
    obtain ⟨-, hroom, ⟨⟩⟩ := hu
    exact .push hroom
  | pop =>
    refine ⟨_, rfl, fun u hu => ?_⟩
    simp only [except_bind_ok_iff, Prod.exists, State.pop_ok_iff] at hu
    obtain ⟨x, _, ⟨rest, hstack, rfl⟩, ⟨⟩⟩ := hu
    exact .pop hstack
  | dup =>
    refine ⟨_, rfl, fun u hu => ?_⟩
    simp only [except_bind_ok_iff, State.top_ok_iff, State.requireRoom_ok_iff] at hu
    obtain ⟨x, ⟨rest, hstack⟩, -, hroom, ⟨⟩⟩ := hu
    exact .dup hstack hroom
  | add => exact ⟨_, rfl, State.completes_of_binary_ok .add⟩
  | sub => exact ⟨_, rfl, State.completes_of_binary_ok .sub⟩
  | mul => exact ⟨_, rfl, State.completes_of_binary_ok .mul⟩
  | div => exact ⟨_, rfl, State.completes_of_binary_ok .div⟩
  | cmp =>
    refine ⟨_, rfl, State.completes_of_binary_ok fun hstack hr => ?_⟩
    obtain ⟨⟩ := hr
    exact .cmp hstack
  | jmp w =>
    refine ⟨_, rfl, fun u hu => ?_⟩
    simp only [except_bind_ok_iff, State.requireTarget_ok_iff] at hu
    obtain ⟨-, htarget, ⟨⟩⟩ := hu
    exact .jmp htarget
  | jz w => exact ⟨_, rfl, State.completes_of_branchIf_ok .jz⟩
  | jnz w => exact ⟨_, rfl, State.completes_of_branchIf_ok .jnz⟩
  | store k =>
    refine ⟨_, rfl, fun u hu => ?_⟩
    simp only [except_bind_ok_iff, requireCell_ok_iff, Prod.exists, State.pop_ok_iff] at hu
    obtain ⟨-, hcell, x, _, ⟨rest, hstack, rfl⟩, ⟨⟩⟩ := hu
    exact .store hcell hstack
  | load k =>
    refine ⟨_, rfl, fun u hu => ?_⟩
    simp only [except_bind_ok_iff, requireCell_ok_iff, State.requireRoom_ok_iff] at hu
    obtain ⟨-, hcell, -, hroom, ⟨⟩⟩ := hu
    exact .load hcell hroom
  | call w =>
    refine ⟨_, rfl, fun u hu => ?_⟩
    simp only [except_bind_ok_iff, State.requireTarget_ok_iff, State.requireCallRoom_ok_iff] at hu
    obtain ⟨-, htarget, -, hroom, ⟨⟩⟩ := hu
    exact .call htarget hroom
  | ret =>
    refine ⟨_, rfl, fun u hu => ?_⟩
    simp only [except_bind_ok_iff, Prod.exists, State.cpop_ok_iff] at hu
    obtain ⟨a, _, ⟨rest, hstack, rfl⟩, ⟨⟩⟩ := hu
    exact .ret hstack
  | print =>
    refine ⟨_, rfl, fun u hu => ?_⟩
    simp only [except_bind_ok_iff, Prod.exists, State.pop_ok_iff] at hu
    obtain ⟨x, _, ⟨rest, hstack, rfl⟩, ⟨⟩⟩ := hu
    exact .print hstack
  | halt =>
    refine ⟨.ok (s.advance 1).stop, rfl, fun u hu => ?_⟩
    obtain ⟨⟩ := hu
    exact .halt

/-- An instruction either completes or takes a trap. -/
theorem exec_next_cases {i : Instr} {s t : State} (h : exec i s = .next t) :
    Completes i s t ∨ ∃ c, t = s.takeTrap c := by
  obtain ⟨r, hexec, hdone⟩ := exec_eq_commit i s
  rw [hexec, State.commit_next_iff] at h
  obtain hok | ⟨c, -, htrap⟩ := h
  · exact .inl (hdone t hok)
  · exact .inr ⟨c, htrap⟩

/-! ### What a step and a LOAD do -/

/-- A fetch that fails at a byte takes a trap (R82, R83). -/
theorem State.fetchFailed_next {e : DecodeError} {s t : State} (he : e ≠ .noByte)
    (h : s.fetchFailed e = .next t) : ∃ c, t = s.takeTrap c := by
  cases e with
  | noByte => exact absurd rfl he
  | unknownOpcode op => cases h; exact ⟨_, rfl⟩
  | unexpectedEnd => cases h; exact ⟨_, rfl⟩

/-- The step of an inactive core keeps the state; that of an active core completes the fetched
instruction or takes a trap. -/
theorem step_next_cases {s t : State} (h : step s = .next t) :
    (s.active = false ∧ t = s) ∨
      s.active = true ∧ ((∃ i, s.fetch = .ok i ∧ Completes i s t) ∨ ∃ c, t = s.takeTrap c) := by
  unfold step at h
  split at h
  next hactive =>
    refine .inr ⟨hactive, ?_⟩
    split at h
    next i hfetch => exact (exec_next_cases h).imp_left fun hdone => ⟨i, hfetch, hdone⟩
    next e hfetch =>
      have he : e ≠ .noByte := fun he => State.fetch_ne_noByte hactive (he ▸ hfetch)
      exact .inr (State.fetchFailed_next he h)
  next hactive =>
    cases h
    exact .inl ⟨Bool.eq_false_of_not_eq_true hactive, rfl⟩

/-- LOAD accepts an image exactly up to the length bound, and is then RESET with that image. -/
theorem State.load_next_iff (image : List Byte) (s t : State) :
    s.load image = .next t ↔
      imageLenWf image.length = true ∧ t = ({ s with code := image } : State).resetCommand := by
  unfold State.load
  split
  next hlen => simp [hlen, eq_comm (a := t)]
  next hlen => simp [hlen]

end Sys2Proof.Machine
end

section
/-! O32: the code image is read-only to the core (10_state.md R22). -/

namespace Sys2Proof.Machine

/-- No instruction that runs to its end writes the image. -/
theorem Completes.code_eq {i : Instr} {s t : State} (h : Completes i s t) : t.code = s.code := by
  cases h <;> rfl

theorem step_code_eq {s t : State} (h : step s = .next t) : t.code = s.code := by
  obtain ⟨-, rfl⟩ | ⟨-, ⟨i, -, hdone⟩ | ⟨c, rfl⟩⟩ := step_next_cases h
  · rfl
  · exact hdone.code_eq
  · exact State.code_takeTrap s c

theorem State.load_code_eq {image : List Byte} {s t : State} (h : s.load image = .next t) :
    t.code = image := by
  obtain ⟨-, rfl⟩ := (State.load_next_iff image s t).1 h
  exact State.code_resetCommand _

/-- Settles O32: a step, RESET and LOAD, each by the lemma that says what it does to the image. -/
theorem codeIsImmutable : Obligations.CodeIsImmutable :=
  ⟨fun _ _ => step_code_eq, State.code_resetCommand, fun _ _ _ => State.load_code_eq⟩

end Sys2Proof.Machine
end

section
/-! The step from the byte at `pc`: what an opcode byte and the bytes after it make an active core do
(30_encoding.md R71, R72, R75, R80 to R83). -/

namespace Sys2Proof

/-! ### Operand words -/

/-- `CodeRead(p, 4)` is the big-endian value of its bytes (R15, R72). -/
theorem toNat_operandWord (b3 b2 b1 b0 : Byte) :
    (operandWord b3 b2 b1 b0).toNat =
      b3.toNat * 16777216 + b2.toNat * 65536 + b1.toNat * 256 + b0.toNat := by
  have hlow : (b1 ++ b0).toNat < 2 ^ 16 := (b1 ++ b0).isLt
  simp only [operandWord, BitVec.toNat_append, ← Nat.shiftLeft_add_eq_or_of_lt b2.isLt,
    ← Nat.shiftLeft_add_eq_or_of_lt b0.isLt] at hlow ⊢
  rw [← Nat.shiftLeft_add_eq_or_of_lt hlow]
  simp only [Nat.shiftLeft_eq]
  omega

/-- Operand fetch raises where the image ends within the operand (R83). -/
theorem fetchOperand_of_length_lt {rest : List Byte} (h : rest.length < 4) :
    fetchOperand rest = .error .unexpectedEnd := by
  unfold fetchOperand
  split
  · simp at h
    omega
  · rfl

theorem withOperand_of_length_lt (mk : Word → Instr) {rest : List Byte} (h : rest.length < 4) :
    withOperand mk rest = .error .unexpectedEnd := by
  simp [withOperand, fetchOperand_of_length_lt h]

theorem withOperand_of_four_bytes (mk : Word → Instr) (b3 b2 b1 b0 : Byte) (tail : List Byte) :
    withOperand mk (b3 :: b2 :: b1 :: b0 :: tail) = .ok (mk (operandWord b3 b2 b1 b0)) := rfl

namespace Machine

/-! ### The step of an active core -/

/-- A trap as the claims write it is the model's trap entry (R192). -/
theorem trapState_code (c : TrapCause) (s : State) : trapState c.code s = s.takeTrap c := rfl

theorem step_of_fetch_ok {s : State} {i : Instr} (hactive : s.active = true)
    (hfetch : s.fetch = .ok i) : step s = exec i s := by
  simp [step, hactive, hfetch]

theorem step_of_fetch_error {s : State} {e : DecodeError} (hactive : s.active = true)
    (hfetch : s.fetch = .error e) : step s = s.fetchFailed e := by
  simp [step, hactive, hfetch]

/-- A byte of the image stands before the bytes after it. -/
theorem drop_code_of_getElem? {code : List Byte} {n : Nat} {b : Byte} (h : code[n]? = some b) :
    code.drop n = b :: code.drop (n + 1) := by
  rw [List.drop_eq_getElem?_toList_append, h]
  rfl

theorem State.fetch_of_opcode {s : State} {op : Byte} (h : s.code[u32 s.pc]? = some op) :
    s.fetch = decode (op :: s.code.drop (u32 s.pc + 1)) := by
  rw [State.fetch, drop_code_of_getElem? h]

/-! ### From the opcode map to the step -/

/-- An opcode byte that decodes alone runs its instruction (R71, R75). -/
theorem runsF1_of_decode {op : Byte} {i : Instr} (hdecode : ∀ rest, decode (op :: rest) = .ok i) :
    RunsF1 op i := fun _ hactive hop =>
  step_of_fetch_ok hactive ((State.fetch_of_opcode hop).trans (hdecode _))

/-- An opcode byte that decodes with an operand runs its instruction on the big-endian operand word, or
traps where the image ends first (R72, R75, R83). -/
theorem runsF5_of_decode {op : Byte} {mk : Word → Instr}
    (hdecode : ∀ rest, decode (op :: rest) = withOperand mk rest) : RunsF5 op mk := by
  intro s hactive hop
  have hfetch : s.fetch = withOperand mk (s.code.drop (u32 s.pc + 1)) :=
    (State.fetch_of_opcode hop).trans (hdecode _)
  constructor
  · intro hend
    have hshort : (s.code.drop (u32 s.pc + 1)).length < 4 := by
      rw [List.length_drop]
      unfold State.codeLen at hend
      omega
    exact step_of_fetch_error hactive (hfetch.trans (withOperand_of_length_lt mk hshort))
  · intro b3 b2 b1 b0 h3 h2 h1 h0 w hw
    rw [← toNat_operandWord] at hw
    obtain rfl := BitVec.eq_of_toNat_eq hw
    rw [drop_code_of_getElem? h3, drop_code_of_getElem? h2, drop_code_of_getElem? h1,
      drop_code_of_getElem? h0, withOperand_of_four_bytes] at hfetch
    exact step_of_fetch_ok hactive hfetch

end Machine

end Sys2Proof
end

section
/-! When a rule's check passes and when it raises, and what becomes of the step then (60_exceptions.md R192,
R193). -/

namespace Sys2Proof.Machine

/-! ### The course of a rule -/

/-- A check that passes leaves the rule to its remaining part. -/
theorem State.commit_bind_ok {α : Type} {s : State} {x : Except TrapCause α} {a : α}
    {f : α → Except TrapCause State} (h : x = .ok a) : s.commit (x >>= f) = s.commit (f a) := by
  rw [h]
  rfl

/-- The first check that raises decides the trap. -/
theorem State.commit_bind_error {α : Type} {s : State} {x : Except TrapCause α} {c : TrapCause}
    {f : α → Except TrapCause State} (h : x = .error c) :
    s.commit (x >>= f) = .next (trapState c.code s) := by
  rw [h, trapState_code]
  rfl

/-! ### The checks on the operand stack -/

theorem State.requireRoom_of_not_full {s : State}
    (h : s.params.ostackDepth ≠ .finite s.ostack.length) : s.requireRoom = .ok () := by
  have hroom : s.ostackFull = false := Bool.eq_false_of_not_eq_true (mt (State.ostackFull_iff s).1 h)
  exact (State.requireRoom_ok_iff s ()).2 hroom

theorem State.requireRoom_of_full {s : State}
    (h : s.params.ostackDepth = .finite s.ostack.length) :
    s.requireRoom = .error .ostackOverflow := by
  rw [State.requireRoom_eq, if_pos ((State.ostackFull_iff s).2 h)]

theorem State.pop_of_cons {s : State} {x : Word} {rest : List Word} (h : s.ostack = x :: rest) :
    s.pop = .ok (x, { s with ostack := rest }) := (State.pop_ok_iff ..).2 ⟨rest, h, rfl⟩

theorem State.pop_of_nil {s : State} (h : s.ostack = []) : s.pop = .error .stackUnderflow :=
  (State.pop_error_iff ..).2 ⟨h, rfl⟩

theorem State.top_of_cons {s : State} {x : Word} {rest : List Word} (h : s.ostack = x :: rest) :
    s.top = .ok x := (State.top_ok_iff ..).2 ⟨rest, h⟩

theorem State.top_of_nil {s : State} (h : s.ostack = []) : s.top = .error .stackUnderflow :=
  (State.top_error_iff ..).2 ⟨h, rfl⟩

end Sys2Proof.Machine
end

section
/-! O10, O11, O12: PUSH, POP and DUP (40_stack.md R110 to R112). -/

namespace Sys2Proof.Machine

/-! ### PUSH -/

theorem runsF5_push : RunsF5 0x01 Instr.push := runsF5_of_decode fun _ => rfl

theorem exec_push_of_not_full (v : Word) {s : State}
    (h : s.params.ostackDepth ≠ .finite s.ostack.length) :
    exec (.push v) s = .next { s with pc := s.pc + 5, ostack := v :: s.ostack } :=
  State.commit_bind_ok (State.requireRoom_of_not_full (s := s.advance 5) h)

theorem exec_push_of_full (v : Word) {s : State}
    (h : s.params.ostackDepth = .finite s.ostack.length) :
    exec (.push v) s = .next (trapState 9 s) :=
  State.commit_bind_error (State.requireRoom_of_full (s := s.advance 5) h)

/-- Settles O10: the check for room decides. -/
theorem pushPushesItsOperand : Obligations.PushPushesItsOperand :=
  ⟨runsF5_push, fun v _ => ⟨exec_push_of_not_full v, exec_push_of_full v⟩⟩

/-! ### POP -/

theorem runsF1_pop : RunsF1 0x02 Instr.pop := runsF1_of_decode fun _ => rfl

theorem exec_pop_of_cons {s : State} {x : Word} {rest : List Word} (h : s.ostack = x :: rest) :
    exec .pop s = .next { s with pc := s.pc + 1, ostack := rest } :=
  State.commit_bind_ok (State.pop_of_cons (s := s.advance 1) h)

theorem exec_pop_of_nil {s : State} (h : s.ostack = []) : exec .pop s = .next (trapState 1 s) :=
  State.commit_bind_error (State.pop_of_nil (s := s.advance 1) h)

/-- Settles O11: by whether there is an entry to pop. -/
theorem popDiscardsTheTop : Obligations.PopDiscardsTheTop :=
  ⟨runsF1_pop, fun _ => ⟨fun _ _ => exec_pop_of_cons, exec_pop_of_nil⟩⟩

/-! ### DUP -/

theorem runsF1_dup : RunsF1 0x03 Instr.dup := runsF1_of_decode fun _ => rfl

theorem exec_dup_of_nil {s : State} (h : s.ostack = []) : exec .dup s = .next (trapState 1 s) :=
  State.commit_bind_error (State.top_of_nil (s := s.advance 1) h)

section
variable {s : State} {x : Word} {rest : List Word}

/-- With an entry to copy, only the check for room is left. -/
theorem exec_dup_of_cons (h : s.ostack = x :: rest) :
    exec .dup s = s.commit ((s.advance 1).requireRoom >>= fun _ => .ok ((s.advance 1).push x)) :=
  State.commit_bind_ok (State.top_of_cons (s := s.advance 1) h)

theorem exec_dup_of_not_full (h : s.ostack = x :: rest)
    (hroom : s.params.ostackDepth ≠ .finite s.ostack.length) :
    exec .dup s = .next { s with pc := s.pc + 1, ostack := x :: x :: rest } := by
  rw [exec_dup_of_cons h, ← h]
  exact State.commit_bind_ok (State.requireRoom_of_not_full (s := s.advance 1) hroom)

theorem exec_dup_of_full (h : s.ostack = x :: rest)
    (hfull : s.params.ostackDepth = .finite s.ostack.length) :
    exec .dup s = .next (trapState 9 s) := by
  rw [exec_dup_of_cons h]
  exact State.commit_bind_error (State.requireRoom_of_full (s := s.advance 1) hfull)

end

/-- Settles O12: by whether there is an entry to copy, then by the check for room. -/
theorem dupCopiesTheTop : Obligations.DupCopiesTheTop :=
  ⟨runsF1_dup, fun _ =>
    ⟨fun _ _ h => ⟨exec_dup_of_not_full h, exec_dup_of_full h⟩, exec_dup_of_nil⟩⟩

end Sys2Proof.Machine
end

section
/-! The step of a two-operand instruction, from the depth of the operand stack and the answer of its operation
(41_alu.md R120). -/

namespace Sys2Proof.Machine

/-- Below two entries the two-operand course takes the trap of its prologue (R16). -/
theorem State.commit_binary_of_length_lt (op : Word → Word → Except TrapCause Word) {s : State}
    (h : s.ostack.length < 2) :
    s.commit ((s.advance 1).binary op) = .next (trapState 1 s) := by
  have hpair : (s.advance 1).popPair = .error .stackUnderflow :=
    (State.popPair_error_iff ..).2 ⟨h, rfl⟩
  exact State.commit_bind_error hpair

/-- A result replaces the two operands, and `pc` is behind the instruction. -/
theorem State.commit_binary_of_ok {op : Word → Word → Except TrapCause Word} {s : State}
    {a b r : Word} {rest : List Word} (h : s.ostack = b :: a :: rest) (hop : op a b = .ok r) :
    s.commit ((s.advance 1).binary op) = .next { s with pc := s.pc + 1, ostack := r :: rest } := by
  have hdone : (s.advance 1).binary op = .ok { s with pc := s.pc + 1, ostack := r :: rest } :=
    (State.binary_ok_iff ..).2 ⟨a, b, rest, r, h, hop, rfl⟩
  rw [hdone, State.commit_ok]

end Sys2Proof.Machine
end

section
/-! O18: CMP (41_alu.md R125). -/

namespace Sys2Proof.Machine

theorem runsF1_cmp : RunsF1 0x14 Instr.cmp := runsF1_of_decode fun _ => rfl

/-- The three outcomes of CMP are the three signs of the exact difference. -/
theorem s32_cmpResult (a b : Word) : s32 (cmpResult a b) = (s32 a - s32 b).sign := by
  unfold cmpResult
  split
  next hlt =>
    rw [s32_bits32 (by decide), Int.sign_eq_neg_one_of_neg (Int.sub_neg_of_lt hlt)]
  next hnlt =>
    split
    next heq => rw [s32_bits32 (by decide), heq, Int.sub_self, Int.sign_zero]
    next hne =>
      have hgt : s32 b < s32 a := by omega
      rw [s32_bits32 (by decide), Int.sign_eq_one_of_pos (Int.sub_pos_of_lt hgt)]

theorem exec_cmp_of_length_lt {s : State} (h : s.ostack.length < 2) :
    exec .cmp s = .next (trapState 1 s) := State.commit_binary_of_length_lt _ h

theorem exec_cmp_of_cons_cons {s : State} {a b : Word} {rest : List Word}
    (h : s.ostack = b :: a :: rest) :
    exec .cmp s = .next { s with pc := s.pc + 1, ostack := cmpResult a b :: rest } :=
  State.commit_binary_of_ok h rfl

/-- Settles O18: by whether there are two entries; the word pushed is `cmpResult`. -/
theorem cmpPushesTheExactSign : Obligations.CmpPushesTheExactSign :=
  ⟨runsF1_cmp, fun _ =>
    ⟨fun b a _ h => ⟨cmpResult a b, s32_cmpResult a b, exec_cmp_of_cons_cons h⟩,
      exec_cmp_of_length_lt⟩⟩

end Sys2Proof.Machine
end

section
/-! The target check: a jump or call target is valid exactly below `N` (42_branch.md R143). -/

namespace Sys2Proof.Machine

theorem State.requireTarget_of_lt {t : Word} {s : State} (h : t.toNat < s.codeLen) :
    s.requireTarget t = .ok () := (State.requireTarget_ok_iff t s ()).2 h

theorem State.requireTarget_of_le {t : Word} {s : State} (h : s.codeLen ≤ t.toNat) :
    s.requireTarget t = .error .invalidTarget :=
  (State.requireTarget_eq t s).trans (if_pos h)

end Sys2Proof.Machine
end

section
/-! O19: JMP (42_branch.md R140). -/

namespace Sys2Proof.Machine

theorem runsF5_jmp : RunsF5 0x20 Instr.jmp := runsF5_of_decode fun _ => rfl

theorem exec_jmp_of_lt {t : Word} {s : State} (h : t.toNat < s.codeLen) :
    exec (.jmp t) s = .next { s with pc := t } :=
  State.commit_bind_ok (State.requireTarget_of_lt (s := s.advance 5) h)

theorem exec_jmp_of_le {t : Word} {s : State} (h : s.codeLen ≤ t.toNat) :
    exec (.jmp t) s = .next (trapState 4 s) :=
  State.commit_bind_error (State.requireTarget_of_le (s := s.advance 5) h)

/-- Settles O19: the target check decides. -/
theorem jmpSetsThePc : Obligations.JmpSetsThePc :=
  ⟨runsF5_jmp, fun _ _ => ⟨exec_jmp_of_lt, exec_jmp_of_le⟩⟩

end Sys2Proof.Machine
end

section
/-! The cell check: an operand names a cell exactly below 1024 (43_memory_ops.md R152). -/

namespace Sys2Proof.Machine

theorem requireCell_of_lt {k : Word} (h : u32 k < 1024) : requireCell k = .ok () :=
  (requireCell_ok_iff k ()).2 h

theorem requireCell_of_le {k : Word} (h : 1024 ≤ u32 k) : requireCell k = .error .memOutOfBounds :=
  (requireCell_eq k).trans (if_pos h)

end Sys2Proof.Machine
end

section
/-! O23: LOAD (43_memory_ops.md R151). -/

namespace Sys2Proof.Machine

theorem runsF5_load : RunsF5 0x31 Instr.load := runsF5_of_decode fun _ => rfl

theorem exec_load_of_le {k : Word} (s : State) (h : 1024 ≤ u32 k) :
    exec (.load k) s = .next (trapState 3 s) := State.commit_bind_error (requireCell_of_le h)

section
variable {k : Word} {s : State}

/-- With a cell that exists, only the check for room is left. -/
theorem exec_load_of_lt (h : u32 k < 1024) :
    exec (.load k) s = s.commit ((s.advance 5).requireRoom >>= fun _ =>
      .ok ((s.advance 5).push (s.readCell (u32 k)))) :=
  State.commit_bind_ok (requireCell_of_lt h)

theorem exec_load_of_full (h : u32 k < 1024)
    (hfull : s.params.ostackDepth = .finite s.ostack.length) :
    exec (.load k) s = .next (trapState 9 s) := by
  rw [exec_load_of_lt h]
  exact State.commit_bind_error (State.requireRoom_of_full (s := s.advance 5) hfull)

theorem exec_load_of_not_full (h : u32 k < 1024)
    (hroom : s.params.ostackDepth ≠ .finite s.ostack.length) :
    exec (.load k) s =
      .next { s with pc := s.pc + 5, ostack := Memory.read s.mem (u32 k) :: s.ostack } := by
  rw [exec_load_of_lt h]
  exact State.commit_bind_ok (State.requireRoom_of_not_full (s := s.advance 5) hroom)

end

/-- Settles O23: by the check of the cell, then by the check for room. -/
theorem loadPushesItsCell : Obligations.LoadPushesItsCell :=
  ⟨runsF5_load, fun _ s => ⟨exec_load_of_le s, exec_load_of_full, exec_load_of_not_full⟩⟩

end Sys2Proof.Machine
end

section
/-! The check on the call stack: a call has room exactly when CSTACK_DEPTH is not reached (60_exceptions.md
R191). -/

namespace Sys2Proof.Machine

theorem State.requireCallRoom_of_not_full {s : State}
    (h : s.params.cstackDepth ≠ .finite s.cstack.length) : s.requireCallRoom = .ok () := by
  have hroom : s.cstackFull = false := Bool.eq_false_of_not_eq_true (mt (State.cstackFull_iff s).1 h)
  exact (State.requireCallRoom_ok_iff s ()).2 hroom

theorem State.requireCallRoom_of_full {s : State}
    (h : s.params.cstackDepth = .finite s.cstack.length) :
    s.requireCallRoom = .error .cstackOverflow := by
  rw [State.requireCallRoom_eq, if_pos ((State.cstackFull_iff s).2 h)]

end Sys2Proof.Machine
end

section
/-! O24: CALL (44_call.md R160). -/

namespace Sys2Proof.Machine

theorem runsF5_call : RunsF5 0x40 Instr.call := runsF5_of_decode fun _ => rfl

section
variable {t : Word} {s : State}

theorem exec_call_of_le (h : s.codeLen ≤ t.toNat) :
    exec (.call t) s = .next (trapState 4 s) :=
  State.commit_bind_error (State.requireTarget_of_le (s := s.advance 5) h)

/-- With a valid target, only the check for room is left. -/
theorem exec_call_of_lt (h : t.toNat < s.codeLen) :
    exec (.call t) s = s.commit ((s.advance 5).requireCallRoom >>= fun _ =>
      .ok (((s.advance 5).cpush (s.pc + 5)).jump t)) :=
  State.commit_bind_ok (State.requireTarget_of_lt (s := s.advance 5) h)

theorem exec_call_of_full (h : t.toNat < s.codeLen)
    (hfull : s.params.cstackDepth = .finite s.cstack.length) :
    exec (.call t) s = .next (trapState 10 s) := by
  rw [exec_call_of_lt h]
  exact State.commit_bind_error (State.requireCallRoom_of_full (s := s.advance 5) hfull)

theorem exec_call_of_not_full (h : t.toNat < s.codeLen)
    (hroom : s.params.cstackDepth ≠ .finite s.cstack.length) :
    exec (.call t) s = .next { s with pc := t, cstack := (s.pc + 5) :: s.cstack } := by
  rw [exec_call_of_lt h]
  exact State.commit_bind_ok (State.requireCallRoom_of_not_full (s := s.advance 5) hroom)

end

/-- Settles O24: by the target check, then by the check for room on the call stack. -/
theorem callPushesTheReturnAddress : Obligations.CallPushesTheReturnAddress :=
  ⟨runsF5_call, fun _ _ => ⟨exec_call_of_le, exec_call_of_full, exec_call_of_not_full⟩⟩

end Sys2Proof.Machine
end

section
/-! A core that is not active keeps its state, however many steps it is given (30_encoding.md R86). -/

namespace Sys2Proof.Machine

theorem step_of_not_active {s : State} (h : s.active ≠ true) : step s = .next s := if_neg h

/-- A state whose step is itself is the state after any number of steps. -/
theorem stepsTo_self_of_step {s : State} (h : step s = .next s) (k : Nat) : StepsTo s k s := by
  induction k with
  | zero => exact (stepsTo_zero_iff s s).2 rfl
  | succ k ih => exact (stepsTo_succ_iff k s s).2 ⟨s, h, ih⟩

theorem State.not_active_of_not_running {s : State} (h : s.running = false) : s.active ≠ true := by
  intro hactive
  obtain ⟨hrunning, -⟩ := (State.active_iff s).1 hactive
  exact absurd (h.symm.trans hrunning) Bool.false_ne_true

end Sys2Proof.Machine
end

section
/-! O27: HALT (45_system.md R171). -/

namespace Sys2Proof.Machine

theorem runsF1_halt : RunsF1 0xFF Instr.halt := runsF1_of_decode fun _ => rfl

/-- HALT makes no check: it commits the stopped core behind the instruction. -/
theorem exec_halt (s : State) :
    exec .halt s = .next { s with pc := s.pc + 1, running := false } :=
  State.commit_ok s (s.advance 1).stop

/-- Settles O27: the state after HALT is not running, so its step is itself, by induction any number of
times. -/
theorem haltStopsTheCore : Obligations.HaltStopsTheCore :=
  ⟨runsF1_halt, fun s =>
    ⟨exec_halt s, stepsTo_self_of_step (step_of_not_active (State.not_active_of_not_running rfl))⟩⟩

end Sys2Proof.Machine
end

section
/-! The causes an instruction's own rule can record: never the two that decode and operand fetch raise
(60_exceptions.md R185, R187). -/

namespace Sys2Proof.Machine

/-! ### Courses that raise only an instruction's own causes -/

/-- The causes raised before an instruction runs: UNEXPECTED_END by the operand fetch (R185) and
UNKNOWN_OPCODE by decode (R187). -/
def TrapCause.ofFetch : TrapCause → Bool
  | .unexpectedEnd | .unknownOpcode => true
  | _ => false

/-- The codes of the other eight causes are neither 5 nor 7 (R189). -/
theorem TrapCause.code_ne_of_not_ofFetch {c : TrapCause} (h : c.ofFetch = false) :
    c.code ≠ 5 ∧ c.code ≠ 7 := by
  cases c with
  | unexpectedEnd | unknownOpcode => cases h
  | _ => decide

/-- `Course P x`: `x` answers only with what meets `P`, and raises no cause of a fetch. -/
def Course {α : Type} (P : α → Prop) : Except TrapCause α → Prop
  | .ok a => P a
  | .error c => c.ofFetch = false

theorem Course.bind {α β : Type} {P : α → Prop} {Q : β → Prop} {x : Except TrapCause α}
    {f : α → Except TrapCause β} (hx : Course P x) (hf : ∀ a, P a → Course Q (f a)) :
    Course Q (x >>= f) := by
  cases x with
  | ok a => exact hf a hx
  | error c => exact hx

/-- A check on an operand or a capacity, and the rest of the rule. -/
theorem Course.bind_check {α β : Type} {Q : β → Prop} {x : Except TrapCause α}
    {f : α → Except TrapCause β} (hx : Course (fun _ => True) x) (hf : ∀ a, Course Q (f a)) :
    Course Q (x >>= f) := hx.bind fun a _ => hf a

/-- A check that raises its one cause is a course. -/
theorem Course.check {p : Prop} [Decidable p] {c : TrapCause} (hc : c.ofFetch = false) :
    Course (fun _ => True) (if p then .error c else .ok ()) := by
  split
  · exact hc
  · trivial

/-! ### The shared operations are such courses -/

theorem State.course_requireTarget (t : Word) (s : State) :
    Course (fun _ => True) (s.requireTarget t) := Course.check rfl

theorem course_requireCell (k : Word) : Course (fun _ => True) (requireCell k) := Course.check rfl

theorem State.course_requireRoom (s : State) : Course (fun _ => True) s.requireRoom :=
  Course.check rfl

theorem State.course_requireCallRoom (s : State) : Course (fun _ => True) s.requireCallRoom :=
  Course.check rfl

theorem State.course_pop (s : State) : Course (fun p => p.2.trapCause = s.trapCause) s.pop := by
  unfold State.pop
  split <;> rfl

theorem State.course_top (s : State) : Course (fun _ => True) s.top := by
  unfold State.top
  split
  · trivial
  · rfl

theorem State.course_popPair (s : State) :
    Course (fun p => p.2.2.trapCause = s.trapCause) s.popPair := by
  unfold State.popPair
  split <;> rfl

theorem State.course_cpop (s : State) : Course (fun p => p.2.trapCause = s.trapCause) s.cpop := by
  unfold State.cpop
  split <;> rfl

theorem course_arithResult (mode : OverflowMode) (r : Int) :
    Course (fun _ => True) (arithResult mode r) := by
  unfold arithResult
  split
  · rfl
  · trivial

theorem course_divResult (mode : OverflowMode) (a b : Word) :
    Course (fun _ => True) (divResult mode a b) := by
  unfold divResult
  split
  · rfl
  · split
    · cases mode with
      | wrap => trivial
      | trap => rfl
    · trivial

theorem State.course_binary {op : Word → Word → Except TrapCause Word}
    (hop : ∀ a b, Course (fun _ => True) (op a b)) (s : State) :
    Course (fun t => t.trapCause = s.trapCause) (s.binary op) :=
  s.course_popPair.bind fun (a, b, _) hs1 => (hop a b).bind_check fun _ => hs1

theorem State.course_branchIf (taken : Word → Bool) (t : Word) (s : State) :
    Course (fun u => u.trapCause = s.trapCause) (s.branchIf taken t) :=
  (s.course_requireTarget t).bind_check fun _ => s.course_pop.bind fun (x, s1) hs1 => by
    show (if taken x then s1.jump t else s1).trapCause = s.trapCause
    split <;> exact hs1

/-! ### Every instruction is such a course -/

theorem exec_eq_commit_course (i : Instr) (s : State) :
    ∃ r, exec i s = s.commit r ∧ Course (fun u => u.trapCause = s.trapCause) r := by
  cases i with
  | push v => exact ⟨_, rfl, (State.course_requireRoom _).bind_check fun _ => rfl⟩
  | pop => exact ⟨_, rfl, (State.course_pop _).bind fun _ h => h⟩
  | dup =>
    exact ⟨_, rfl, (State.course_top _).bind_check fun _ =>
      (State.course_requireRoom _).bind_check fun _ => rfl⟩
  | add | sub | mul => exact ⟨_, rfl, State.course_binary (fun _ _ => course_arithResult _ _) _⟩
  | div => exact ⟨_, rfl, State.course_binary (fun _ _ => course_divResult _ _ _) _⟩
  | cmp =>
    exact ⟨_, rfl, State.course_binary (op := fun a b => .ok (cmpResult a b))
      (fun _ _ => trivial) _⟩
  | jmp t => exact ⟨_, rfl, (State.course_requireTarget t _).bind_check fun _ => rfl⟩
  | jz t | jnz t => exact ⟨_, rfl, State.course_branchIf _ t _⟩
  | store k =>
    exact ⟨_, rfl, (course_requireCell k).bind_check fun _ =>
      (State.course_pop _).bind fun _ h => h⟩
  | load k =>
    exact ⟨_, rfl, (course_requireCell k).bind_check fun _ =>
      (State.course_requireRoom _).bind_check fun _ => rfl⟩
  | call t =>
    exact ⟨_, rfl, (State.course_requireTarget t _).bind_check fun _ =>
      (State.course_requireCallRoom _).bind_check fun _ => rfl⟩
  | ret => exact ⟨_, rfl, (State.course_cpop _).bind fun _ h => h⟩
  | print => exact ⟨_, rfl, (State.course_pop _).bind fun _ h => h⟩
  | halt => exact ⟨.ok (s.advance 1).stop, rfl, rfl⟩

/-- An instruction leaves the recorded cause, or records one that is neither 5 nor 7. -/
theorem exec_trapCause {i : Instr} {s t : State} (h : exec i s = .next t) :
    t.trapCause = s.trapCause ∨ t.trapCause ≠ 5 ∧ t.trapCause ≠ 7 := by
  obtain ⟨r, hexec, hcourse⟩ := exec_eq_commit_course i s
  rw [hexec, State.commit_next_iff] at h
  obtain rfl | ⟨c, rfl, rfl⟩ := h
  · exact .inl hcourse
  · exact .inr (TrapCause.code_ne_of_not_ofFetch hcourse)

end Sys2Proof.Machine
end

section
/-! O8 and O9: the opcode byte and the bytes left in the image decide whether the step is a trap of decode, a
trap of the operand fetch, or an instruction (30_encoding.md R77, R82, R83; 60_exceptions.md R185, R187). -/

namespace Sys2Proof

open Machine

/-! ### The three kinds of opcode byte -/

/-- The map of R75 has no row for the values R77 lists. -/
theorem decodeOpcode_of_illegal {op : Byte} (h : isIllegalByte op) : decodeOpcode op = none := by
  have hrow : ∀ row ∈ opcodeTable, row.1 ≠ op.toNat := by
    unfold isIllegalByte at h
    simp only [opcodeTable, List.forall_mem_cons, List.not_mem_nil, false_imp_iff, implies_true,
      and_true]
    omega
  simpa [decodeOpcode] using hrow

theorem decode_of_illegal {op : Byte} (h : isIllegalByte op) (rest : List Byte) :
    decode (op :: rest) = .error (.unknownOpcode op) := by
  simp [decode, decodeOpcode_of_illegal h]

/-- The row of R75 for each byte that takes an operand. -/
theorem decode_of_isF5Byte {op : Byte} (h : isF5Byte op = true) :
    ∃ mk, ∀ rest, decode (op :: rest) = withOperand mk rest := by
  obtain rfl | rfl | rfl | rfl | rfl | rfl | rfl :
      op = 0x01 ∨ op = 0x20 ∨ op = 0x21 ∨ op = 0x22 ∨ op = 0x30 ∨ op = 0x31 ∨ op = 0x40 := by
    simpa [isF5Byte, ← BitVec.toNat_inj] using h
  · exact ⟨.push, fun _ => rfl⟩
  · exact ⟨.jmp, fun _ => rfl⟩
  · exact ⟨.jz, fun _ => rfl⟩
  · exact ⟨.jnz, fun _ => rfl⟩
  · exact ⟨.store, fun _ => rfl⟩
  · exact ⟨.load, fun _ => rfl⟩
  · exact ⟨.call, fun _ => rfl⟩

/-- The row of R75 for each byte that stands alone. -/
theorem decode_of_isF1Byte {op : Byte} (h : isF1Byte op = true) :
    ∃ i, ∀ rest, decode (op :: rest) = .ok i := by
  obtain rfl | rfl | rfl | rfl | rfl | rfl | rfl | rfl | rfl | rfl :
      op = 0x02 ∨ op = 0x03 ∨ op = 0x10 ∨ op = 0x11 ∨ op = 0x12 ∨ op = 0x13 ∨ op = 0x14 ∨
        op = 0x41 ∨ op = 0x50 ∨ op = 0xFF := by
    simpa [isF1Byte, ← BitVec.toNat_inj] using h
  all_goals exact ⟨_, fun _ => rfl⟩

/-- A byte outside the ranges of R77 stands alone or takes an operand (R74, R75). -/
theorem isF1Byte_or_isF5Byte_of_legal {op : Byte} (h : ¬ isIllegalByte op) :
    isF1Byte op = true ∨ isF5Byte op = true := by
  unfold isIllegalByte at h
  simp only [isF1Byte, isF5Byte, List.contains_iff_mem, List.mem_cons, List.not_mem_nil]
  omega

theorem withOperand_of_le_length (mk : Word → Instr) {rest : List Byte} (h : 4 ≤ rest.length) :
    ∃ w, withOperand mk rest = .ok (mk w) := by
  match rest, h with
  | b3 :: b2 :: b1 :: b0 :: tail, _ => exact ⟨_, withOperand_of_four_bytes mk b3 b2 b1 b0 tail⟩

namespace Machine

/-! ### The step from the opcode byte at `pc` -/

/-- The image ends within the instruction at `pc`: an F5 opcode at `A` with `A + 5 > N` (R185). -/
def State.truncatedAt (op : Byte) (s : State) : Prop :=
  op.toNat ∈ [0x01, 0x20, 0x21, 0x22, 0x30, 0x31, 0x40] ∧ s.codeLen < u32 s.pc + 5

section
variable {s : State} {op : Byte}

theorem step_of_illegal (hactive : s.active = true) (hop : s.code[u32 s.pc]? = some op)
    (hillegal : isIllegalByte op) : step s = .next (trapState 7 s) :=
  step_of_fetch_error hactive ((State.fetch_of_opcode hop).trans (decode_of_illegal hillegal _))

theorem step_of_truncated (hactive : s.active = true) (hop : s.code[u32 s.pc]? = some op)
    (htrunc : s.truncatedAt op) : step s = .next (trapState 5 s) := by
  obtain ⟨hF5, hend⟩ := htrunc
  obtain ⟨mk, hdecode⟩ := decode_of_isF5Byte (List.contains_iff_mem.2 hF5)
  exact (runsF5_of_decode hdecode s hactive hop).1 hend

/-- A legal opcode whose operand is all there runs its instruction. -/
theorem step_of_legal_of_not_truncated (hactive : s.active = true)
    (hop : s.code[u32 s.pc]? = some op) (hlegal : ¬ isIllegalByte op)
    (htrunc : ¬ s.truncatedAt op) : ∃ i, step s = exec i s := by
  obtain hF1 | hF5 := isF1Byte_or_isF5Byte_of_legal hlegal
  · obtain ⟨i, hdecode⟩ := decode_of_isF1Byte hF1
    exact ⟨i, runsF1_of_decode hdecode s hactive hop⟩
  · obtain ⟨mk, hdecode⟩ := decode_of_isF5Byte hF5
    have hlen : 4 ≤ (s.code.drop (u32 s.pc + 1)).length := by
      have hend : ¬ s.code.length < u32 s.pc + 5 :=
        fun hend => htrunc ⟨List.contains_iff_mem.1 hF5, hend⟩
      rw [List.length_drop]
      omega
    obtain ⟨w, hw⟩ := withOperand_of_le_length mk hlen
    exact ⟨mk w, step_of_fetch_ok hactive
      ((State.fetch_of_opcode hop).trans ((hdecode _).trans hw))⟩

/-- So such a step keeps the recorded cause, or records one that is neither 5 nor 7. -/
theorem step_trapCause_of_legal_of_not_truncated {t : State} (hactive : s.active = true)
    (hop : s.code[u32 s.pc]? = some op) (hlegal : ¬ isIllegalByte op)
    (htrunc : ¬ s.truncatedAt op) (hstep : step s = .next t) :
    t.trapCause = s.trapCause ∨ t.trapCause ≠ 5 ∧ t.trapCause ≠ 7 := by
  obtain ⟨i, hexec⟩ := step_of_legal_of_not_truncated hactive hop hlegal htrunc
  exact exec_trapCause (hexec.symm.trans hstep)

end

/-- Settles O8: a step from a legal byte is the trap of a truncated operand, which records cause 5, or
an instruction, which records no cause of a fetch. -/
theorem illegalOpcodeBytesTrap : Obligations.IllegalOpcodeBytesTrap := by
  refine fun s op hactive hop => ⟨step_of_illegal hactive hop, fun hlegal t hstep hcause => ?_⟩
  by_cases htrunc : s.truncatedAt op
  · obtain rfl := Host.Outcome.next.inj ((step_of_truncated hactive hop htrunc).symm.trans hstep)
    exact absurd hcause (by decide : (5 : BitVec 8) ≠ 7)
  · obtain hkeep | ⟨-, hne⟩ :=
      step_trapCause_of_legal_of_not_truncated hactive hop hlegal htrunc hstep
    · exact hkeep ▸ hcause
    · exact absurd hcause hne

/-- Settles O9: any other step is the trap of an illegal byte, which records cause 7, or an instruction,
which records no cause of a fetch. -/
theorem truncatedOperandTraps : Obligations.TruncatedOperandTraps := by
  refine fun s op hactive hop => ⟨step_of_truncated hactive hop, fun htrunc t hstep hcause => ?_⟩
  by_cases hillegal : isIllegalByte op
  · obtain rfl := Host.Outcome.next.inj ((step_of_illegal hactive hop hillegal).symm.trans hstep)
    exact absurd hcause (by decide : (7 : BitVec 8) ≠ 5)
  · obtain hkeep | ⟨hne, -⟩ :=
      step_trapCause_of_legal_of_not_truncated hactive hop hillegal htrunc hstep
    · exact hkeep ▸ hcause
    · exact absurd hcause hne

end Machine

end Sys2Proof
end

section
/-! O44 and O45: RESET and LOAD (70_reset_and_hazards.md R210, R211). -/

namespace Sys2Proof.Machine

/-- Settles O44: the record of R35's values is what RESET is defined to write. -/
theorem resetCommandReinitialises : Obligations.ResetCommandReinitialises := fun _ => rfl

/-- Settles O45: an image within the bound is accepted, and LOAD is then RESET with that image, which
gives every other element its value by O44. -/
theorem loadInstallsTheImage : Obligations.LoadInstallsTheImage := by
  intro image s hlen
  have haccepted : imageLenWf image.length = true := (imageLenWf_iff _).2 hlen
  exact (State.load_next_iff image s _).2
    ⟨haccepted, (resetCommandReinitialises { s with code := image }).symm⟩

end Sys2Proof.Machine
end

section
/-! O1 to O5: the encoder and the decoder agree (30_encoding.md R70 to R75). -/

namespace Sys2Proof

/-! ### Operand words -/

/-- The big-endian word of the four bytes of `w` is `w` (R71, R72). -/
theorem operandWord_of_wordBytes (w : Word) :
    operandWord (w.extractLsb' 24 8) (w.extractLsb' 16 8) (w.extractLsb' 8 8)
      (w.extractLsb' 0 8) = w := by
  apply BitVec.eq_of_toNat_eq
  have hw : w.toNat < 4294967296 := w.isLt
  simp only [toNat_operandWord, BitVec.extractLsb'_toNat, Nat.shiftRight_eq_div_pow]
  omega

/-- No bit of the operand bytes is dropped (R72). -/
theorem wordBytes_operandWord (b3 b2 b1 b0 : Byte) :
    wordBytes (operandWord b3 b2 b1 b0) = [b3, b2, b1, b0] := by
  have h2 : b2.toNat < 256 := b2.isLt
  have h1 : b1.toNat < 256 := b1.isLt
  have h0 : b0.toNat < 256 := b0.isLt
  have h3 : b3.toNat < 256 := b3.isLt
  simp only [wordBytes, List.cons.injEq, and_true]
  refine ⟨?_, ?_, ?_, ?_⟩ <;>
  · apply BitVec.eq_of_toNat_eq
    simp only [BitVec.extractLsb'_toNat, toNat_operandWord, Nat.shiftRight_eq_div_pow]
    omega

theorem withOperand_wordBytes (mk : Word → Instr) (w : Word) (rest : List Byte) :
    withOperand mk (wordBytes w ++ rest) = .ok (mk w) :=
  (withOperand_of_four_bytes mk _ _ _ _ rest).trans (by rw [operandWord_of_wordBytes])

/-- Where an operand is fetched, the bytes begin with the encoding of its word. -/
theorem take_four_of_fetchOperand {rest : List Byte} {w : Word} (h : fetchOperand rest = .ok w) :
    rest.take 4 = wordBytes w := by
  obtain ⟨b3, b2, b1, b0, tail, rfl, rfl⟩ := fetchOperand_ok h
  exact (wordBytes_operandWord b3 b2 b1 b0).symm

/-! ### Decoding an encoding -/

theorem decode_encode_append (i : Instr) (rest : List Byte) :
    decode (encode i ++ rest) = .ok i := by
  cases i with
  | push w | jmp w | jz w | jnz w | store w | load w | call w =>
    exact withOperand_wordBytes _ w rest
  | pop | dup | add | sub | mul | div | cmp | ret | print | halt => rfl

theorem length_encode (i : Instr) : (encode i).length = i.size := by
  cases i <;> rfl

/-- Settles O1: the operand word survives its four bytes, and the opcode byte names its instruction. -/
theorem decodeOfEncodeIsTheInstruction : Obligations.DecodeOfEncodeIsTheInstruction :=
  fun i rest _ => ⟨decode_encode_append i rest, length_encode i⟩

/-! ### Encoding a decoding -/

/-- The opcode bytes of R75, read from opcode to byte. -/
def Opcode.byte : Opcode → Byte
  | .push => 0x01
  | .pop => 0x02
  | .dup => 0x03
  | .add => 0x10
  | .sub => 0x11
  | .mul => 0x12
  | .div => 0x13
  | .cmp => 0x14
  | .jmp => 0x20
  | .jz => 0x21
  | .jnz => 0x22
  | .store => 0x30
  | .load => 0x31
  | .call => 0x40
  | .ret => 0x41
  | .print => 0x50
  | .halt => 0xFF

/-- Each opcode has one byte: the row that the decoder found is the only one of its opcode (R76). -/
theorem eq_byte_of_decodeOpcode {op : Byte} {o : Opcode} (h : decodeOpcode op = some o) :
    op = o.byte := by
  have hrows : ∀ row ∈ opcodeTable, row.1 = row.2.byte.toNat := by decide
  obtain ⟨row, hfind, rfl⟩ := Option.map_eq_some_iff.1 h
  have hbyte : row.1 = op.toNat := by simpa using List.find?_some hfind
  exact BitVec.eq_of_toNat_eq (hbyte.symm.trans (hrows row (List.mem_of_find?_eq_some hfind)))

/-- The opcode's byte, and for an F5 opcode the four bytes fetched, are the encoding (R74, R75). -/
theorem take_size_of_decodeInstr {o : Opcode} {rest : List Byte} {i : Instr}
    (h : decodeInstr o rest = .ok i) : (o.byte :: rest).take i.size = encode i := by
  cases o with
  | push | jmp | jz | jnz | store | load | call =>
    obtain ⟨w, hw, rfl⟩ := withOperand_ok h
    exact congrArg (_ :: ·) (take_four_of_fetchOperand hw)
  | pop | dup | add | sub | mul | div | cmp | ret | print | halt =>
    cases h
    rfl

/-- Settles O2: the bytes begin with an opcode byte of R75, which is that of the encoding. -/
theorem decodedBytesAreTheEncoding : Obligations.DecodedBytesAreTheEncoding := by
  intro bs i hdecode
  match bs with
  | [] => cases hdecode
  | op :: rest =>
    simp only [decode] at hdecode
    split at hdecode
    · cases hdecode
    next o hop =>
      obtain rfl := eq_byte_of_decodeOpcode hop
      exact take_size_of_decodeInstr hdecode

theorem instrBytesWf_encode (i : Instr) : instrBytesWf (encode i) = true := by
  cases i <;> rfl

/-- An instruction has 1 or 5 bytes (R70). -/
theorem size_eq_one_or_five (i : Instr) : i.size = 1 ∨ i.size = 5 := by
  cases i <;> simp [Instr.size]

/-- An F1 byte alone decodes, and its encoding is no shorter. -/
theorem exists_encode_of_isF1Byte {op : Byte} (h : isF1Byte op = true) : ∃ i, [op] = encode i := by
  obtain ⟨i, hdecode⟩ := decode_of_isF1Byte h
  have htake := decodedBytesAreTheEncoding [op] i (hdecode [])
  obtain hone | hfive := size_eq_one_or_five i
  · exact ⟨i, by rwa [hone] at htake⟩
  · exact ⟨i, by rwa [hfive] at htake⟩

/-- An F5 byte with four more decodes, and its encoding is no shorter, since the byte alone does not
decode. -/
theorem exists_encode_of_isF5Byte {op : Byte} {operand : List Byte} (h : isF5Byte op = true)
    (hlen : operand.length = 4) : ∃ i, op :: operand = encode i := by
  obtain ⟨mk, hdecode⟩ := decode_of_isF5Byte h
  obtain ⟨w, hw⟩ := withOperand_of_le_length mk hlen.ge
  have htake := decodedBytesAreTheEncoding (op :: operand) (mk w) ((hdecode operand).trans hw)
  obtain hone | hfive := size_eq_one_or_five (mk w)
  · rw [hone] at htake
    have halone : decode [op] = .ok (mk w) := by
      simpa [← htake] using decode_encode_append (mk w) []
    rw [hdecode, withOperand_of_length_lt mk (by decide)] at halone
    cases halone
  · rw [hfive, List.take_of_length_le (by simp [hlen])] at htake
    exact ⟨mk w, htake⟩

/-- Bytes of the form that R70 and R74 give one instruction are the encoding of one. -/
theorem exists_encode_of_instrBytesWf {bs : List Byte} (h : instrBytesWf bs = true) :
    ∃ i, bs = encode i := by
  match bs with
  | [] => cases h
  | op :: operand =>
    simp only [instrBytesWf, Bool.or_eq_true, Bool.and_eq_true, beq_iff_eq] at h
    obtain ⟨hF1, hlen⟩ | ⟨hF5, hlen⟩ := h
    · obtain rfl := List.length_eq_zero_iff.1 hlen
      exact exists_encode_of_isF1Byte hF1
    · exact exists_encode_of_isF5Byte hF5 hlen

/-- Settles O3: both directions, by the form of the bytes. -/
theorem wellFormedBytesAreExactlyTheEncodings :
    Obligations.WellFormedBytesAreExactlyTheEncodings := by
  refine fun bs => ⟨exists_encode_of_instrBytesWf, ?_⟩
  rintro ⟨i, rfl⟩
  exact instrBytesWf_encode i

/-- Settles O4: each is the decoder's value on the bytes written out. -/
theorem writtenWordsDecode : Obligations.WrittenWordsDecode :=
  ⟨rfl, rfl, rfl, rfl, rfl, rfl, rfl⟩

/-- Settles O5: the fetch is the decoder on the bytes at `pc`. -/
theorem stepRunsTheDecodedInstruction : Obligations.StepRunsTheDecodedInstruction :=
  fun _ _ hactive hdecode _ => Machine.step_of_fetch_ok hactive hdecode

end Sys2Proof
end

section
/-! A two-operand instruction whose operation raises (41_alu.md R120, R124). -/

namespace Sys2Proof.Machine

/-- With two operands, a cause that the operation raises is the step's trap. -/
theorem State.commit_binary_of_error {op : Word → Word → Except TrapCause Word} {s : State}
    {a b : Word} {c : TrapCause} {rest : List Word} (h : s.ostack = b :: a :: rest)
    (hop : op a b = .error c) :
    s.commit ((s.advance 1).binary op) = .next (trapState c.code s) := by
  have hraise : (s.advance 1).binary op = .error c := by
    rw [State.binary_eq, State.ostack_advance, h]
    simp only [hop]
  rw [hraise, State.commit_error, trapState_code]

end Sys2Proof.Machine
end

section
/-! O13, O14, O15: ADD, SUB and MUL (41_alu.md R120 to R123). -/

namespace Sys2Proof.Machine

/-! ### The overflow rule of R120 -/

theorem arithResult_of_range (mode : OverflowMode) {r : Int}
    (h : -2147483648 ≤ r ∧ r ≤ 2147483647) : arithResult mode r = .ok (bits32 r) :=
  (arithResult_eq mode r).trans (if_pos (.inl h))

theorem arithResult_wrap (r : Int) : arithResult .wrap r = .ok (bits32 r) :=
  (arithResult_eq .wrap r).trans (if_pos (.inr rfl))

theorem arithResult_trap_of_overflow {r : Int} (h : r < -2147483648 ∨ 2147483647 < r) :
    arithResult .trap r = .error .arithOverflow := by
  rw [arithResult_eq, if_neg]
  rintro (hrange | ⟨⟨⟩⟩)
  omega

/-- An instruction that runs the two-operand course on `arithResult` follows R120. -/
theorem pushesExactResult_of_exec_eq {i : Instr} {f : Int → Int → Int}
    (hexec : ∀ s, exec i s = s.commit ((s.advance 1).binary fun a b =>
      arithResult s.params.arithOverflow (f (s32 a) (s32 b)))) :
    PushesExactResult i f := by
  intro s
  rw [hexec]
  refine ⟨State.commit_binary_of_length_lt _, fun b a rest hstack => ⟨fun hrange => ?_, fun hover =>
    ⟨fun hmode => ?_, fun hmode => ?_⟩⟩⟩
  · exact ⟨_, s32_bits32 hrange, State.commit_binary_of_ok hstack (arithResult_of_range _ hrange)⟩
  · rw [hmode]
    exact ⟨_, u32_bits32 _, State.commit_binary_of_ok hstack (arithResult_wrap _)⟩
  · rw [hmode]
    exact State.commit_binary_of_error (c := .arithOverflow) hstack
      (arithResult_trap_of_overflow hover)

/-! ### The three instructions -/

theorem runsF1_add : RunsF1 0x10 Instr.add := runsF1_of_decode fun _ => rfl

theorem runsF1_sub : RunsF1 0x11 Instr.sub := runsF1_of_decode fun _ => rfl

theorem runsF1_mul : RunsF1 0x12 Instr.mul := runsF1_of_decode fun _ => rfl

/-- Settles O13: ADD runs the course of R120 on the sum. -/
theorem addPushesTheSum : Obligations.AddPushesTheSum :=
  ⟨runsF1_add, pushesExactResult_of_exec_eq fun _ => rfl⟩

/-- Settles O14: SUB runs the course of R120 on the difference. -/
theorem subPushesTheDifference : Obligations.SubPushesTheDifference :=
  ⟨runsF1_sub, pushesExactResult_of_exec_eq fun _ => rfl⟩

/-- Settles O15: MUL runs the course of R120 on the product. -/
theorem mulPushesTheProduct : Obligations.MulPushesTheProduct :=
  ⟨runsF1_mul, pushesExactResult_of_exec_eq fun _ => rfl⟩

end Sys2Proof.Machine
end

section
/-! O16 and O17: DIV (41_alu.md R124 with 00_scope.md R14). -/

namespace Sys2Proof.Machine

/-! ### The quotient rounded toward zero -/

theorem natAbs_truncDiv (a b : Int) : (truncDiv a b).natAbs = a.natAbs / b.natAbs :=
  Int.natAbs_tdiv a b

/-- The quotient is negative exactly where the signs differ and it is not rounded to zero (R14). -/
theorem truncDiv_neg_iff (a b : Int) :
    truncDiv a b < 0 ↔ ((a < 0 ∧ 0 < b) ∨ (0 < a ∧ b < 0)) ∧ b.natAbs ≤ a.natAbs := by
  rw [truncDiv, ← Int.sign_eq_neg_one_iff_neg, Int.sign_tdiv, ← Int.sign_mul]
  split
  next hlt =>
    have hnle : ¬ b.natAbs ≤ a.natAbs := Nat.not_le.2 hlt
    simp [hnle]
  next hnlt =>
    have hle : b.natAbs ≤ a.natAbs := Nat.not_lt.1 hnlt
    rw [Int.sign_eq_neg_one_iff_neg, mul_neg_iff]
    tauto

/-- The one quotient of two words outside `i32` is that of -2^31 by -1 (R124). -/
theorem truncDiv_range {a b : Word} (hover : ¬ (s32 a = -2147483648 ∧ s32 b = -1)) :
    -2147483648 ≤ truncDiv (s32 a) (s32 b) ∧ truncDiv (s32 a) (s32 b) ≤ 2147483647 := by
  have hlo : -2147483648 ≤ s32 a := BitVec.le_toInt a
  have hhi : s32 a < 2147483648 := BitVec.toInt_lt
  have habs := natAbs_truncDiv (s32 a) (s32 b)
  by_cases hmin : s32 a = -2147483648
  · by_cases hone : s32 b = 1
    · rw [hmin, hone]
      decide
    · have hne : s32 b ≠ -1 := fun hb => hover ⟨hmin, hb⟩
      have hsmall : (s32 a).natAbs / (s32 b).natAbs ≤ 1073741824 := by
        obtain hzero | htwo : (s32 b).natAbs = 0 ∨ 2 ≤ (s32 b).natAbs := by omega
        · simp [hzero]
        · exact (Nat.div_le_div_left htwo (by decide)).trans (by omega)
      omega
  · have hle := Nat.div_le_self (s32 a).natAbs (s32 b).natAbs
    omega

theorem s32_bits32_truncDiv {a b : Word} (hover : ¬ (s32 a = -2147483648 ∧ s32 b = -1)) :
    s32 (bits32 (truncDiv (s32 a) (s32 b))) = truncDiv (s32 a) (s32 b) :=
  s32_bits32 (truncDiv_range hover)

/-! ### The result of DIV -/

theorem divResult_of_zero (mode : OverflowMode) (a : Word) {b : Word} (h : s32 b = 0) :
    divResult mode a b = .error .divByZero := if_pos h

/-! The one quotient that is not representable goes by the mode (D5). -/

theorem divResult_trap_of_overflow {a b : Word} (h : s32 a = -2147483648 ∧ s32 b = -1) :
    divResult .trap a b = .error .arithOverflow := by
  simp [divResult, h]

theorem divResult_wrap_of_overflow {a b : Word} (h : s32 a = -2147483648 ∧ s32 b = -1) :
    divResult .wrap a b = .ok (bits32 (-2147483648)) := by
  simp [divResult, h]

theorem divResult_of_range (mode : OverflowMode) {a b : Word} (hzero : s32 b ≠ 0)
    (hover : ¬ (s32 a = -2147483648 ∧ s32 b = -1)) :
    divResult mode a b = .ok (bits32 (truncDiv (s32 a) (s32 b))) :=
  (if_neg hzero).trans (if_neg hover)

/-! ### The instruction -/

theorem runsF1_div : RunsF1 0x13 Instr.div := runsF1_of_decode fun _ => rfl

theorem exec_div_of_length_lt {s : State} (h : s.ostack.length < 2) :
    exec .div s = .next (trapState 1 s) := State.commit_binary_of_length_lt _ h

section
variable {s : State} {a b : Word} {rest : List Word} (hstack : s.ostack = b :: a :: rest)
include hstack

theorem exec_div_of_zero (h : s32 b = 0) : exec .div s = .next (trapState 2 s) :=
  State.commit_binary_of_error hstack (divResult_of_zero _ a h)

theorem exec_div_of_overflow_trap (h : s32 a = -2147483648 ∧ s32 b = -1)
    (hmode : s.params.divOverflow = .trap) : exec .div s = .next (trapState 8 s) :=
  State.commit_binary_of_error (c := .arithOverflow) hstack
    (hmode ▸ divResult_trap_of_overflow h)

theorem exec_div_of_overflow_wrap (h : s32 a = -2147483648 ∧ s32 b = -1)
    (hmode : s.params.divOverflow = .wrap) :
    exec .div s = .next { s with pc := s.pc + 1, ostack := bits32 (-2147483648) :: rest } :=
  State.commit_binary_of_ok hstack (hmode ▸ divResult_wrap_of_overflow h)

theorem exec_div_of_range (hzero : s32 b ≠ 0) (hover : ¬ (s32 a = -2147483648 ∧ s32 b = -1)) :
    exec .div s =
      .next { s with pc := s.pc + 1, ostack := bits32 (truncDiv (s32 a) (s32 b)) :: rest } :=
  State.commit_binary_of_ok hstack (divResult_of_range _ hzero hover)

end

/-- Settles O16: by the depth, the divisor, the overflow case and its mode; the word pushed reads back
as the quotient, whose magnitude and sign R14 gives. -/
theorem divPushesTheTruncatedQuotient : Obligations.DivPushesTheTruncatedQuotient := by
  refine ⟨runsF1_div, fun s => ⟨exec_div_of_length_lt, fun b a rest hstack =>
    ⟨exec_div_of_zero hstack, fun hover => ⟨exec_div_of_overflow_trap hstack hover, fun hmode =>
      ⟨_, by decide, exec_div_of_overflow_wrap hstack hover hmode⟩⟩, ?_⟩⟩⟩
  rintro ⟨hzero, hover⟩
  refine ⟨_, ?_, ?_, exec_div_of_range hstack hzero hover⟩
  · exact (congrArg Int.natAbs (s32_bits32_truncDiv hover)).trans (natAbs_truncDiv _ _)
  · exact (iff_of_eq (congrArg (· < 0) (s32_bits32_truncDiv hover))).trans (truncDiv_neg_iff _ _)

/-- What the quotient leaves of the dividend is the remainder of truncated division (R124). -/
theorem sub_truncDiv_mul (a b : Int) : a - truncDiv a b * b = a.tmod b := by
  rw [Int.tmod_def, Int.mul_comm, truncDiv]

/-- Settles O17: the pushed word is the truncated quotient, so the difference is `Int.tmod`. -/
theorem divLeavesARemainderOfTheDividendsSign :
    Obligations.DivLeavesARemainderOfTheDividendsSign := by
  intro s t b a q rest hstack hzero hover hexec htop
  obtain rfl := Host.Outcome.next.inj ((exec_div_of_range hstack hzero hover).symm.trans hexec)
  obtain ⟨rfl, -⟩ := List.cons.inj htop
  have hrem : a.toInt - s32 (bits32 (truncDiv (s32 a) (s32 b))) * b.toInt = a.toInt.tmod b.toInt := by
    rw [s32_bits32_truncDiv hover, sub_truncDiv_mul]
  rw [hrem, Int.natAbs_tmod, Int.sign_tmod]
  refine ⟨Nat.mod_lt _ (Int.natAbs_pos.2 hzero), ?_⟩
  by_cases hdvd : b.toInt ∣ a.toInt
  · exact .inl (Int.tmod_eq_zero_of_dvd hdvd)
  · exact .inr (if_neg hdvd)

end Sys2Proof.Machine
end

section
/-! O20 and O21: JZ and JNZ (42_branch.md R141, R142). -/

namespace Sys2Proof.Machine

/-! ### The step of a conditional branch -/

section
variable {taken : Word → Bool} {t : Word} {s : State}

theorem State.commit_branchIf_of_le (h : s.codeLen ≤ t.toNat) :
    s.commit ((s.advance 5).branchIf taken t) = .next (trapState 4 s) :=
  State.commit_bind_error (State.requireTarget_of_le (s := s.advance 5) h)

/-- The depth is checked behind the target (D10). -/
theorem State.commit_branchIf_of_nil (h : t.toNat < s.codeLen) (hstack : s.ostack = []) :
    s.commit ((s.advance 5).branchIf taken t) = .next (trapState 1 s) :=
  (State.commit_bind_ok (State.requireTarget_of_lt (s := s.advance 5) h)).trans
    (State.commit_bind_error (State.pop_of_nil (s := s.advance 5) hstack))

theorem State.commit_branchIf_of_cons {x : Word} {rest : List Word} (h : t.toNat < s.codeLen)
    (hstack : s.ostack = x :: rest) :
    s.commit ((s.advance 5).branchIf taken t) =
      .next { s with pc := if taken x then t else s.pc + 5, ostack := rest } := by
  have hdone : (s.advance 5).branchIf taken t =
      .ok { s with pc := if taken x then t else s.pc + 5, ostack := rest } :=
    (State.branchIf_ok_iff ..).2 ⟨h, x, rest, hstack, rfl⟩
  rw [hdone, State.commit_ok]

end

/-! ### JZ -/

theorem runsF5_jz : RunsF5 0x21 Instr.jz := runsF5_of_decode fun _ => rfl

theorem exec_jz_of_le {t : Word} {s : State} (h : s.codeLen ≤ t.toNat) :
    exec (.jz t) s = .next (trapState 4 s) := State.commit_branchIf_of_le h

theorem exec_jz_of_nil {t : Word} {s : State} (h : t.toNat < s.codeLen) (hstack : s.ostack = []) :
    exec (.jz t) s = .next (trapState 1 s) := State.commit_branchIf_of_nil h hstack

theorem exec_jz_of_cons {t x : Word} {s : State} {rest : List Word} (h : t.toNat < s.codeLen)
    (hstack : s.ostack = x :: rest) :
    exec (.jz t) s = .next { s with pc := if x == 0 then t else s.pc + 5, ostack := rest } :=
  State.commit_branchIf_of_cons h hstack

/-! ### JNZ -/

theorem runsF5_jnz : RunsF5 0x22 Instr.jnz := runsF5_of_decode fun _ => rfl

theorem exec_jnz_of_le {t : Word} {s : State} (h : s.codeLen ≤ t.toNat) :
    exec (.jnz t) s = .next (trapState 4 s) := State.commit_branchIf_of_le h

theorem exec_jnz_of_nil {t : Word} {s : State} (h : t.toNat < s.codeLen) (hstack : s.ostack = []) :
    exec (.jnz t) s = .next (trapState 1 s) := State.commit_branchIf_of_nil h hstack

theorem exec_jnz_of_cons {t x : Word} {s : State} {rest : List Word} (h : t.toNat < s.codeLen)
    (hstack : s.ostack = x :: rest) :
    exec (.jnz t) s = .next { s with pc := if x != 0 then t else s.pc + 5, ostack := rest } :=
  State.commit_branchIf_of_cons h hstack

/-! ### The two statements -/

/-- A word is zero exactly when it is as a signed number. -/
theorem toInt_eq_zero_iff (x : Word) : x.toInt = 0 ↔ x = 0 := by
  rw [← BitVec.toInt_inj]
  rfl

/-- Settles O20: by the target check, then by whether there is an entry; the entry's value decides. -/
theorem jzJumpsOnZero : Obligations.JzJumpsOnZero := by
  refine ⟨runsF5_jz, fun t s => ⟨exec_jz_of_le, exec_jz_of_nil, fun h x rest hstack => ?_⟩⟩
  rw [exec_jz_of_cons h hstack]
  simp only [toInt_eq_zero_iff, beq_iff_eq]

/-- Settles O21: as O20, with the branches exchanged. -/
theorem jnzJumpsOnNonzero : Obligations.JnzJumpsOnNonzero := by
  refine ⟨runsF5_jnz, fun t s => ⟨exec_jnz_of_le, exec_jnz_of_nil, fun h x rest hstack => ?_⟩⟩
  rw [exec_jnz_of_cons h hstack]
  simp only [toInt_eq_zero_iff, bne_iff_ne, ite_not]

end Sys2Proof.Machine
end

section
/-! O22: STORE (43_memory_ops.md R150). -/

namespace Sys2Proof.Machine

theorem runsF5_store : RunsF5 0x30 Instr.store := runsF5_of_decode fun _ => rfl

theorem exec_store_of_le {k : Word} (s : State) (h : 1024 ≤ u32 k) :
    exec (.store k) s = .next (trapState 3 s) := State.commit_bind_error (requireCell_of_le h)

section
variable {k : Word} {s : State}

/-- With a cell that exists, only the depth is left to check. -/
theorem exec_store_of_lt (h : u32 k < 1024) :
    exec (.store k) s = s.commit ((s.advance 5).pop >>= fun p =>
      .ok (p.2.writeCell (u32 k) p.1)) :=
  State.commit_bind_ok (requireCell_of_lt h)

theorem exec_store_of_nil (h : u32 k < 1024) (hstack : s.ostack = []) :
    exec (.store k) s = .next (trapState 1 s) := by
  rw [exec_store_of_lt h]
  exact State.commit_bind_error (State.pop_of_nil (s := s.advance 5) hstack)

theorem exec_store_of_cons {x : Word} {rest : List Word} (h : u32 k < 1024)
    (hstack : s.ostack = x :: rest) :
    exec (.store k) s = .next { s with
      pc := s.pc + 5, ostack := rest, mem := Memory.write s.mem (u32 k) x } := by
  rw [exec_store_of_lt h]
  exact State.commit_bind_ok (State.pop_of_cons (s := s.advance 5) hstack)

end

/-- Settles O22: by the check of the cell, then by the depth; the new memory is the one write, of which
the rules for reading after a write and for the canonical form speak. -/
theorem storeWritesItsCell : Obligations.StoreWritesItsCell := by
  refine ⟨runsF5_store, fun k s => ⟨exec_store_of_le s, exec_store_of_nil, fun h x rest hstack =>
    ⟨_, exec_store_of_cons h hstack, fun hwf => ⟨Memory.write_wf hwf h, ?_, fun j hj => ?_⟩⟩⟩⟩
  · rw [Memory.read_write _ _ _ hwf, if_pos rfl]
  · rw [Memory.read_write _ _ _ hwf, if_neg hj]

end Sys2Proof.Machine
end

section
/-! O25 and O40: RET (44_call.md R161), and RET behind CALL. -/

namespace Sys2Proof.Machine

theorem runsF1_ret : RunsF1 0x41 Instr.ret := runsF1_of_decode fun _ => rfl

theorem exec_ret_of_cons {s : State} {a : Word} {rest : List Word} (h : s.cstack = a :: rest) :
    exec .ret s = .next { s with pc := a, cstack := rest } :=
  State.commit_bind_ok ((State.cpop_ok_iff (s.advance 1) _ a).2 ⟨rest, h, rfl⟩)

theorem exec_ret_of_nil {s : State} (h : s.cstack = []) : exec .ret s = .next (trapState 6 s) :=
  State.commit_bind_error ((State.cpop_error_iff (s.advance 1) _).2 ⟨h, rfl⟩)

/-- Settles O25: by whether there is a return address. -/
theorem retPopsThePc : Obligations.RetPopsThePc :=
  ⟨runsF1_ret, fun _ => ⟨fun _ _ => exec_ret_of_cons, exec_ret_of_nil⟩⟩

/-- Settles O40: the CALL left its return address on top of the call stack, and RET pops it. -/
theorem retReturnsBehindTheCall : Obligations.RetReturnsBehindTheCall := by
  intro k s u v htarget hroom hcall hcstack
  obtain rfl := Host.Outcome.next.inj ((exec_call_of_not_full htarget hroom).symm.trans hcall)
  exact exec_ret_of_cons hcstack

end Sys2Proof.Machine
end

section
/-! O26: PRINT (45_system.md R170). -/

namespace Sys2Proof.Machine

theorem runsF1_print : RunsF1 0x50 Instr.print := runsF1_of_decode fun _ => rfl

theorem exec_print_of_cons {s : State} {x : Word} {rest : List Word} (h : s.ostack = x :: rest) :
    exec .print s = .next { s with pc := s.pc + 1, ostack := rest, out := s.out ++ [x] } :=
  State.commit_bind_ok (State.pop_of_cons (s := s.advance 1) h)

theorem exec_print_of_nil {s : State} (h : s.ostack = []) :
    exec .print s = .next (trapState 1 s) :=
  State.commit_bind_error (State.pop_of_nil (s := s.advance 1) h)

/-- Settles O26: by whether there is an entry to print. -/
theorem printEmitsTheTop : Obligations.PrintEmitsTheTop :=
  ⟨runsF1_print, fun _ => ⟨fun _ _ => exec_print_of_cons, exec_print_of_nil⟩⟩

end Sys2Proof.Machine
end

section
/-! When an instruction traps, and with which cause: the counterpart of `Completes`. The two between them say
everything an instruction does (60_exceptions.md R181 to R194). -/

namespace Sys2Proof.Machine

/-! ### The traps of an instruction -/

/-- The cause that the check of an operand's range raises (R183, R184). -/
def rangeCause : Instr → TrapCause
  | .store _ | .load _ => .memOutOfBounds
  | _ => .invalidTarget

/-- `Raises i s c`: in `s` the instruction `i` traps with the cause `c`. The premises of each cause say
that no check before it in the order of R194 fails. -/
inductive Raises : Instr → State → TrapCause → Prop
  | range {i s} : ¬ operandInRange i s → Raises i s (rangeCause i)
  | underflow {i s} : operandInRange i s → s.ostack.length < entriesNeeded i →
      Raises i s .stackUnderflow
  | overflow {i s} : operandInRange i s → entriesNeeded i ≤ s.ostack.length →
      entriesNeeded i < entriesLeft i → s.ostackFull = true → Raises i s .ostackOverflow
  | callOverflow {w s} : u32 w < s.codeLen → s.cstackFull = true →
      Raises (.call w) s .cstackOverflow
  | retEmpty {s} : s.cstack = [] → Raises .ret s .retEmpty
  | add {s a b rest c} : s.ostack = b :: a :: rest →
      arithResult s.params.arithOverflow (s32 a + s32 b) = .error c → Raises .add s c
  | sub {s a b rest c} : s.ostack = b :: a :: rest →
      arithResult s.params.arithOverflow (s32 a - s32 b) = .error c → Raises .sub s c
  | mul {s a b rest c} : s.ostack = b :: a :: rest →
      arithResult s.params.arithOverflow (s32 a * s32 b) = .error c → Raises .mul s c
  | div {s a b rest c} : s.ostack = b :: a :: rest →
      divResult s.params.divOverflow a b = .error c → Raises .div s c

/-! ### What completes or raises is what is executed -/

theorem State.ostackDepth_ne_of_not_full {s : State} (h : s.ostackFull = false) :
    s.params.ostackDepth ≠ .finite s.ostack.length := fun hfull =>
  Bool.false_ne_true (h.symm.trans ((State.ostackFull_iff s).2 hfull))

theorem State.cstackDepth_ne_of_not_full {s : State} (h : s.cstackFull = false) :
    s.params.cstackDepth ≠ .finite s.cstack.length := fun hfull =>
  Bool.false_ne_true (h.symm.trans ((State.cstackFull_iff s).2 hfull))

theorem Completes.exec_eq {i : Instr} {s t : State} (h : Completes i s t) : exec i s = .next t := by
  cases h with
  | push hroom => exact exec_push_of_not_full _ (State.ostackDepth_ne_of_not_full hroom)
  | pop hstack => exact exec_pop_of_cons hstack
  | dup hstack hroom =>
    rw [exec_dup_of_not_full hstack (State.ostackDepth_ne_of_not_full hroom), hstack]
  | add hstack hop | sub hstack hop | mul hstack hop | div hstack hop =>
    exact State.commit_binary_of_ok hstack hop
  | cmp hstack => exact exec_cmp_of_cons_cons hstack
  | jmp htarget => exact exec_jmp_of_lt htarget
  | jz htarget hstack => exact exec_jz_of_cons htarget hstack
  | jnz htarget hstack => exact exec_jnz_of_cons htarget hstack
  | store hcell hstack => exact exec_store_of_cons hcell hstack
  | load hcell hroom =>
    exact exec_load_of_not_full hcell (State.ostackDepth_ne_of_not_full hroom)
  | call htarget hroom =>
    exact exec_call_of_not_full htarget (State.cstackDepth_ne_of_not_full hroom)
  | ret hcstack => exact exec_ret_of_cons hcstack
  | print hstack => exact exec_print_of_cons hstack
  | halt => exact exec_halt _

section
variable {i : Instr} {s : State}

/-- An operand out of range traps before any other check (R194). -/
theorem exec_of_not_operandInRange (h : ¬ operandInRange i s) :
    exec i s = .next (s.takeTrap (rangeCause i)) := by
  cases i with
  | jmp w => exact exec_jmp_of_le (Nat.not_lt.1 h)
  | jz w => exact exec_jz_of_le (Nat.not_lt.1 h)
  | jnz w => exact exec_jnz_of_le (Nat.not_lt.1 h)
  | call w => exact exec_call_of_le (Nat.not_lt.1 h)
  | store k => exact exec_store_of_le s (Nat.not_lt.1 h)
  | load k => exact exec_load_of_le s (Nat.not_lt.1 h)
  | push | pop | dup | add | sub | mul | div | cmp | ret | print | halt => exact absurd trivial h

theorem exec_of_length_lt_entriesNeeded (hrange : operandInRange i s)
    (h : s.ostack.length < entriesNeeded i) : exec i s = .next (trapState 1 s) := by
  have hnil (hone : entriesNeeded i = 1) : s.ostack = [] :=
    List.length_eq_zero_iff.1 (Nat.lt_one_iff.1 (hone ▸ h))
  cases i with
  | pop => exact exec_pop_of_nil (hnil rfl)
  | dup => exact exec_dup_of_nil (hnil rfl)
  | jz w => exact exec_jz_of_nil hrange (hnil rfl)
  | jnz w => exact exec_jnz_of_nil hrange (hnil rfl)
  | store k => exact exec_store_of_nil hrange (hnil rfl)
  | print => exact exec_print_of_nil (hnil rfl)
  | add | sub | mul | div | cmp => exact State.commit_binary_of_length_lt _ h
  | push | jmp | load | call | ret | halt => exact absurd h (Nat.not_lt_zero _)

/-- Where an instruction would leave more entries than it takes, the full stack traps. -/
theorem exec_of_ostackFull (hrange : operandInRange i s)
    (hdepth : entriesNeeded i ≤ s.ostack.length) (hgrow : entriesNeeded i < entriesLeft i)
    (hfull : s.ostackFull = true) : exec i s = .next (trapState 9 s) := by
  have hcapacity := (State.ostackFull_iff s).1 hfull
  cases i with
  | push v => exact exec_push_of_full v hcapacity
  | dup =>
    obtain ⟨x, rest, hstack⟩ := List.exists_cons_of_length_pos hdepth
    exact exec_dup_of_full hstack hcapacity
  | load k => exact exec_load_of_full hrange hcapacity
  | pop | add | sub | mul | div | cmp | jmp | jz | jnz | store | call | ret | print | halt =>
    simp [entriesNeeded, entriesLeft] at hgrow

theorem Raises.exec_eq {c : TrapCause} (h : Raises i s c) : exec i s = .next (s.takeTrap c) := by
  cases h with
  | range hrange => exact exec_of_not_operandInRange hrange
  | underflow hrange hdepth => exact exec_of_length_lt_entriesNeeded hrange hdepth
  | overflow hrange hdepth hgrow hfull => exact exec_of_ostackFull hrange hdepth hgrow hfull
  | callOverflow htarget hfull =>
    exact exec_call_of_full htarget ((State.cstackFull_iff s).1 hfull)
  | retEmpty hcstack => exact exec_ret_of_nil hcstack
  | add hstack hop | sub hstack hop | mul hstack hop | div hstack hop =>
    exact State.commit_binary_of_error hstack hop

end

/-! ### Every instruction does one or the other -/

/-- An instruction that a result completes and a cause makes trap does one or the other. -/
theorem completes_or_raises_of_result {i : Instr} {s : State} {x : Except TrapCause Word}
    (hok : ∀ r, x = .ok r → ∃ t, Completes i s t) (herror : ∀ c, x = .error c → Raises i s c) :
    (∃ t, Completes i s t) ∨ ∃ c, Raises i s c := by
  cases x with
  | ok r => exact .inl (hok r rfl)
  | error c => exact .inr ⟨c, herror c rfl⟩

/-- With its operand in range and the entries it needs, an instruction completes unless a capacity, the
call stack or its arithmetic stops it. -/
theorem completes_or_raises_of_entries {i : Instr} {s : State} (hrange : operandInRange i s)
    (hdepth : entriesNeeded i ≤ s.ostack.length) :
    (∃ t, Completes i s t) ∨ ∃ c, Raises i s c := by
  have hcons (hone : 1 ≤ s.ostack.length) : ∃ x rest, s.ostack = x :: rest :=
    List.exists_cons_of_length_pos hone
  have hpair (htwo : 2 ≤ s.ostack.length) : ∃ b a rest, s.ostack = b :: a :: rest :=
    match s.ostack, htwo with
    | b :: a :: rest, _ => ⟨b, a, rest, rfl⟩
  cases i with
  | push v =>
    cases hfull : s.ostackFull with
    | false => exact .inl ⟨_, .push hfull⟩
    | true => exact .inr ⟨_, .overflow hrange hdepth Nat.zero_lt_one hfull⟩
  | pop =>
    obtain ⟨x, rest, hstack⟩ := hcons hdepth
    exact .inl ⟨_, .pop hstack⟩
  | dup =>
    obtain ⟨x, rest, hstack⟩ := hcons hdepth
    cases hfull : s.ostackFull with
    | false => exact .inl ⟨_, .dup hstack hfull⟩
    | true => exact .inr ⟨_, .overflow hrange hdepth Nat.one_lt_two hfull⟩
  | add =>
    obtain ⟨b, a, rest, hstack⟩ := hpair hdepth
    exact completes_or_raises_of_result (fun _ hop => ⟨_, .add hstack hop⟩) fun _ hop => .add hstack hop
  | sub =>
    obtain ⟨b, a, rest, hstack⟩ := hpair hdepth
    exact completes_or_raises_of_result (fun _ hop => ⟨_, .sub hstack hop⟩) fun _ hop => .sub hstack hop
  | mul =>
    obtain ⟨b, a, rest, hstack⟩ := hpair hdepth
    exact completes_or_raises_of_result (fun _ hop => ⟨_, .mul hstack hop⟩) fun _ hop => .mul hstack hop
  | div =>
    obtain ⟨b, a, rest, hstack⟩ := hpair hdepth
    exact completes_or_raises_of_result (fun _ hop => ⟨_, .div hstack hop⟩) fun _ hop => .div hstack hop
  | cmp =>
    obtain ⟨b, a, rest, hstack⟩ := hpair hdepth
    exact .inl ⟨_, .cmp hstack⟩
  | jmp w => exact .inl ⟨_, .jmp hrange⟩
  | jz w =>
    obtain ⟨x, rest, hstack⟩ := hcons hdepth
    exact .inl ⟨_, .jz hrange hstack⟩
  | jnz w =>
    obtain ⟨x, rest, hstack⟩ := hcons hdepth
    exact .inl ⟨_, .jnz hrange hstack⟩
  | store k =>
    obtain ⟨x, rest, hstack⟩ := hcons hdepth
    exact .inl ⟨_, .store hrange hstack⟩
  | load k =>
    cases hfull : s.ostackFull with
    | false => exact .inl ⟨_, .load hrange hfull⟩
    | true => exact .inr ⟨_, .overflow hrange hdepth Nat.zero_lt_one hfull⟩
  | call w =>
    cases hfull : s.cstackFull with
    | false => exact .inl ⟨_, .call hrange hfull⟩
    | true => exact .inr ⟨_, .callOverflow hrange hfull⟩
  | ret =>
    cases hcstack : s.cstack with
    | nil => exact .inr ⟨_, .retEmpty hcstack⟩
    | cons a rest => exact .inl ⟨_, .ret hcstack⟩
  | print =>
    obtain ⟨x, rest, hstack⟩ := hcons hdepth
    exact .inl ⟨_, .print hstack⟩
  | halt => exact .inl ⟨_, .halt⟩

theorem completes_or_raises (i : Instr) (s : State) :
    (∃ t, Completes i s t) ∨ ∃ c, Raises i s c := by
  by_cases hrange : operandInRange i s
  · by_cases hdepth : s.ostack.length < entriesNeeded i
    · exact .inr ⟨_, .underflow hrange hdepth⟩
    · exact completes_or_raises_of_entries hrange (Nat.not_lt.1 hdepth)
  · exact .inr ⟨_, .range hrange⟩

/-- What an instruction answers: the state it completes in, or trap entry with the cause it raises. -/
theorem exec_next_iff {i : Instr} {s t : State} :
    exec i s = .next t ↔ Completes i s t ∨ ∃ c, Raises i s c ∧ t = s.takeTrap c := by
  constructor
  · intro h
    obtain ⟨u, hdone⟩ | ⟨c, hraise⟩ := completes_or_raises i s
    · obtain rfl := Host.Outcome.next.inj (hdone.exec_eq.symm.trans h)
      exact .inl hdone
    · exact .inr ⟨c, hraise, (Host.Outcome.next.inj (hraise.exec_eq.symm.trans h)).symm⟩
  · rintro (hdone | ⟨c, hraise, rfl⟩)
    · exact hdone.exec_eq
    · exact hraise.exec_eq

/-! ### What the causes and codes tell -/

/-- The codes of R189 are 1 to 10. -/
theorem TrapCause.code_range (c : TrapCause) : 1 ≤ c.code.toNat ∧ c.code.toNat ≤ 10 := by
  cases c <;> decide

/-- No two causes have one code (R189). -/
theorem TrapCause.eq_stackUnderflow_of_code {c : TrapCause} (h : c.code = 1) :
    c = .stackUnderflow := by
  cases c with
  | stackUnderflow => rfl
  | _ => exact absurd h (by decide)

theorem arithResult_error {mode : OverflowMode} {r : Int} {c : TrapCause}
    (h : arithResult mode r = .error c) : c = .arithOverflow := by
  rw [arithResult_eq] at h
  split at h
  · cases h
  · exact (Except.error.inj h).symm

theorem divResult_error {mode : OverflowMode} {a b : Word} {c : TrapCause}
    (h : divResult mode a b = .error c) : c = .divByZero ∨ c = .arithOverflow := by
  by_cases hzero : s32 b = 0
  · rw [divResult_of_zero mode a hzero] at h
    exact .inl (Except.error.inj h).symm
  · by_cases hover : s32 a = -2147483648 ∧ s32 b = -1
    · cases mode with
      | trap =>
        rw [divResult_trap_of_overflow hover] at h
        exact .inr (Except.error.inj h).symm
      | wrap =>
        rw [divResult_wrap_of_overflow hover] at h
        cases h
    · rw [divResult_of_range mode hzero hover] at h
      cases h

/-- Only want of entries underflows (R181). -/
theorem Raises.length_lt_of_underflow {i : Instr} {s : State} {c : TrapCause} (h : Raises i s c)
    (hc : c = .stackUnderflow) : s.ostack.length < entriesNeeded i := by
  cases h with
  | underflow hrange hdepth => exact hdepth
  | range hrange => cases i <;> cases hc
  | overflow | callOverflow | retEmpty => cases hc
  | add hstack hop | sub hstack hop | mul hstack hop =>
    cases (arithResult_error hop).symm.trans hc
  | div hstack hop =>
    obtain h | h := divResult_error hop <;> cases h.symm.trans hc

end Sys2Proof.Machine
end

section
/-! What each element of the state is after an instruction that completes, one lemma per element (10_state.md R22 to
R30, R42). -/

namespace Sys2Proof.Machine

/-! ### The depths -/

/-- No instruction leaves more than one entry above those it takes. -/
theorem entriesLeft_le (i : Instr) : entriesLeft i ≤ entriesNeeded i + 1 := by
  cases i <;> simp [entriesLeft, entriesNeeded]

section
variable {i : Instr} {s t : State} (h : Completes i s t)
include h

theorem Completes.params_eq : t.params = s.params := by
  cases h <;> rfl

theorem Completes.operandInRange : operandInRange i s := by
  cases h with
  | jmp h | jz h | jnz h | store h | load h | call h => exact h
  | _ => trivial

/-- `pc` is what the table of R24 gives. -/
theorem Completes.pc_eq : t.pc = pcAfter i s := by
  cases h with
  | jz _ hstack => simp [pcAfter, hstack]
  | jnz _ hstack => simp [pcAfter, hstack]
  | ret hcstack => simp [pcAfter, hcstack]
  | _ => rfl

/-- The entries needed are replaced by those left (R25). -/
theorem Completes.ostack_eq : entriesNeeded i ≤ s.ostack.length ∧
    ∃ new : List Word, new.length = entriesLeft i ∧
      t.ostack = new ++ s.ostack.drop (entriesNeeded i) := by
  cases h with
  | push _ | load _ _ => exact ⟨Nat.zero_le _, [_], rfl, rfl⟩
  | dup hstack _ => exact ⟨by simp [hstack, entriesNeeded], [_, _], rfl, by rw [hstack]; rfl⟩
  | pop hstack | jz _ hstack | jnz _ hstack | store _ hstack | print hstack =>
    exact ⟨by simp [hstack, entriesNeeded], [], rfl, by rw [hstack]; rfl⟩
  | add hstack _ | sub hstack _ | mul hstack _ | div hstack _ | cmp hstack =>
    exact ⟨by simp [hstack, entriesNeeded], [_], rfl, by rw [hstack]; rfl⟩
  | jmp _ | call _ _ | ret _ | halt => exact ⟨Nat.zero_le _, [], rfl, rfl⟩

/-- Where the depth grows there was room (R190). -/
theorem Completes.room (hgrow : entriesNeeded i < entriesLeft i) : s.ostackFull = false := by
  cases h with
  | push hroom | dup _ hroom | load _ hroom => exact hroom
  | _ => simp [entriesNeeded, entriesLeft] at hgrow

/-- Only CALL pushes the call stack, where there was room, and only RET pops it (R26). -/
theorem Completes.cstack_cases : t.cstack = s.cstack ∨
    (∃ w, i = .call w ∧ s.cstackFull = false ∧ t.cstack = (s.pc + 5) :: s.cstack) ∨
    (i = .ret ∧ ∃ a, s.cstack = a :: t.cstack ∧ t.pc = a) := by
  cases h with
  | call _ hroom => exact .inr (.inl ⟨_, rfl, hroom, rfl⟩)
  | ret hcstack => exact .inr (.inr ⟨rfl, _, hcstack, rfl⟩)
  | _ => exact .inl rfl

/-- Only STORE writes the memory (R30, R150). -/
theorem Completes.mem_cases : t.mem = s.mem ∨
    ∃ k x, i = .store k ∧ u32 k < 1024 ∧ s.ostack.head? = some x ∧
      t.mem = Memory.write s.mem (u32 k) x := by
  cases h with
  | store hcell hstack => exact .inr ⟨_, _, rfl, hcell, by rw [hstack]; rfl, rfl⟩
  | _ => exact .inl rfl

theorem Completes.trapCause_eq : t.trapCause = s.trapCause := by
  cases h <;> rfl

/-- Only HALT clears `running`, and it does no more than that besides `pc` (R28, R171). -/
theorem Completes.running_cases : t.running = s.running ∨
    (i = .halt ∧ t = { s with pc := s.pc + 1, running := false }) := by
  cases h with
  | halt => exact .inr ⟨rfl, rfl⟩
  | _ => exact .inl rfl

/-- Only PRINT appends to the port, and it appends what it pops (R42, R170). -/
theorem Completes.out_cases : t.out = s.out ∨
    ∃ x rest, i = .print ∧ s.ostack = x :: rest ∧ t.out = s.out ++ [x] ∧ t.ostack = rest := by
  cases h with
  | print hstack => exact .inr ⟨_, _, rfl, hstack, rfl, rfl⟩
  | _ => exact .inl rfl

end

end Sys2Proof.Machine
end

section
/-! What an instruction does not read: `running` and `trap_cause` (R27, R28), the print port (R42), and, unless it is
STORE or LOAD, the memory (R30). -/

namespace Sys2Proof.Machine

variable {i : Instr} {s t : State}

/-- A range check reads the image alone. -/
theorem operandInRange_with (i : Instr) (s : State) (m : Memory) (r : Bool) (c : BitVec 8)
    (o : List Word) :
    operandInRange i { s with mem := m, running := r, trapCause := c, out := o } =
      operandInRange i s := by
  cases i <;> rfl

/-- The checks of R194 read none of the memory, the status and the port. -/
theorem Raises.with_rest {cause : TrapCause} (h : Raises i s cause) (m : Memory) (r : Bool)
    (c : BitVec 8) (o : List Word) :
    Raises i { s with mem := m, running := r, trapCause := c, out := o } cause := by
  have hsame := operandInRange_with i s m r c o
  cases h with
  | range hrange => exact .range (hsame ▸ hrange)
  | underflow hrange hdepth => exact .underflow (hsame ▸ hrange) hdepth
  | overflow hrange hdepth hgrow hfull => exact .overflow (hsame ▸ hrange) hdepth hgrow hfull
  | callOverflow htarget hfull => exact .callOverflow htarget hfull
  | retEmpty hcstack => exact .retEmpty hcstack
  | add hstack hop => exact .add hstack hop
  | sub hstack hop => exact .sub hstack hop
  | mul hstack hop => exact .mul hstack hop
  | div hstack hop => exact .div hstack hop

/-- No premise of a rule names the status, and only HALT writes any of it. -/
theorem Completes.with_status (h : Completes i s t) (hhalt : i ≠ .halt) (r : Bool) (c : BitVec 8) :
    Completes i { s with running := r, trapCause := c } { t with running := r, trapCause := c } := by
  cases h with
  | halt => exact absurd rfl hhalt
  | _ => constructor <;> assumption

/-- No premise of a rule names the memory, and only LOAD and STORE name it in their effect. -/
theorem Completes.with_mem (h : Completes i s t) (hload : ∀ k, i ≠ .load k)
    (hstore : ∀ k, i ≠ .store k) (m : Memory) :
    Completes i { s with mem := m } { t with mem := m } := by
  cases h with
  | load => exact absurd rfl (hload _)
  | store => exact absurd rfl (hstore _)
  | _ => constructor <;> assumption

/-- No premise of a rule names the port, and PRINT appends to it whatever it holds. -/
theorem Completes.with_out (h : Completes i s t) :
    ∃ ev : List Word, t.out = s.out ++ ev ∧
      ∀ o, Completes i { s with out := o } { t with out := o ++ ev } := by
  cases h with
  | print hstack => exact ⟨[_], rfl, fun _ => .print hstack⟩
  | _ =>
    refine ⟨[], (List.append_nil _).symm, fun o => ?_⟩
    rw [List.append_nil]
    constructor <;> assumption

end Sys2Proof.Machine
end

section
/-! O30 and O31: too few entries, and the order of the checks (60_exceptions.md R181, R194). -/

namespace Sys2Proof.Machine

theorem exec_trapCause_ne_underflow {i : Instr} {s t : State}
    (hdepth : entriesNeeded i ≤ s.ostack.length) (hexec : exec i s = .next t)
    (hcause : t.trapCause = 1) : s.trapCause = 1 := by
  obtain hdone | ⟨c, hraise, rfl⟩ := exec_next_iff.1 hexec
  · exact hdone.trapCause_eq ▸ hcause
  · have hshort := hraise.length_lt_of_underflow (TrapCause.eq_stackUnderflow_of_code hcause)
    exact absurd hdepth (Nat.not_le.2 hshort)

/-- Settles O30: the depth is checked behind the range alone, and only its check raises that cause. -/
theorem tooFewEntriesUnderflow : Obligations.TooFewEntriesUnderflow :=
  fun _ _ => ⟨fun hdepth hrange => exec_of_length_lt_entriesNeeded hrange hdepth,
    fun hdepth _ => exec_trapCause_ne_underflow hdepth⟩

/-- Settles O31: each clause is the lemma about the check that comes first. -/
theorem checksComeInTheirOrder : Obligations.ChecksComeInTheirOrder :=
  ⟨fun _ _ hactive hop hillegal _ => step_of_illegal hactive hop hillegal,
    fun _ _ htarget _ => ⟨exec_jz_of_le htarget, exec_jnz_of_le htarget⟩,
    fun _ s hcell _ => exec_store_of_le s hcell,
    fun _ s hcell _ => exec_load_of_le s hcell,
    fun _ _ htarget _ => exec_call_of_le htarget,
    fun _ hstack => exec_div_of_length_lt (by rw [hstack]; exact Nat.one_lt_two),
    fun _ _ _ hstack => exec_div_of_zero hstack rfl⟩

end Sys2Proof.Machine
end

section
/-! O28 and O29: trap entry, and that traps are precise (60_exceptions.md R189, R192, R193). -/

namespace Sys2Proof.Machine

/-- Settles O28: trap entry is this record update, with the code of each cause. -/
theorem trapEntryRecordsTheCause : Obligations.TrapEntryRecordsTheCause :=
  fun _ => ⟨rfl, rfl, rfl, rfl, rfl, rfl, rfl, rfl, rfl, rfl⟩

/-- Every trap is one of the ten, written as the claims write it. -/
theorem State.takeTrap_eq_trapState (c : TrapCause) (s : State) :
    ∃ code : BitVec 8, 1 ≤ code.toNat ∧ code.toNat ≤ 10 ∧ s.takeTrap c = trapState code s :=
  ⟨c.code, c.code_range.1, c.code_range.2, rfl⟩

/-- Settles O29: a step that clears `running` is no idle step and completes nothing but a HALT. -/
theorem trapsArePrecise : Obligations.TrapsArePrecise := by
  intro s t hrunning hstep hstopped
  have hchanged : t.running ≠ s.running := by
    rw [hrunning, hstopped]
    exact Bool.false_ne_true
  obtain ⟨-, rfl⟩ | ⟨-, ⟨i, hfetch, hdone⟩ | ⟨c, rfl⟩⟩ := step_next_cases hstep
  · exact absurd rfl hchanged
  · obtain hsame | ⟨rfl, rfl⟩ := hdone.running_cases
    · exact absurd hsame hchanged
    · exact .inl ⟨hfetch, rfl⟩
  · exact .inr (State.takeTrap_eq_trapState c s)

end Sys2Proof.Machine
end

section
/-! O33 to O35 and O37 to O39: what instructions write and read of each element of the state (00_scope.md section
0.4; 10_state.md R24 to R30). -/

namespace Sys2Proof.Machine

/-! ### The parameters -/

theorem step_params_eq {s t : State} (h : step s = .next t) : t.params = s.params := by
  obtain ⟨-, rfl⟩ | ⟨-, ⟨i, -, hdone⟩ | ⟨c, rfl⟩⟩ := step_next_cases h
  · rfl
  · exact hdone.params_eq
  · exact State.params_takeTrap s c

theorem State.load_params_eq {image : List Byte} {s t : State} (h : s.load image = .next t) :
    t.params = s.params := by
  obtain ⟨-, rfl⟩ := (State.load_next_iff image s t).1 h
  exact State.params_resetCommand _

/-- Settles O33: a step, RESET and LOAD, each by the lemma that says what it does to the parameters. -/
theorem parametersNeverChange : Obligations.ParametersNeverChange :=
  ⟨fun _ _ => step_params_eq, State.params_resetCommand, fun _ _ _ => State.load_params_eq⟩

/-! ### `running` and `trap_cause` -/

/-- Who writes the status: nobody, HALT, or a trap. -/
theorem exec_status {i : Instr} {s t : State} (h : exec i s = .next t) :
    (t.running = s.running ∧ t.trapCause = s.trapCause) ∨
    (i = .halt ∧ t.running = false ∧ t.trapCause = s.trapCause) ∨
    (t.running = false ∧ 1 ≤ t.trapCause.toNat ∧ t.trapCause.toNat ≤ 10) := by
  obtain hdone | ⟨c, -, rfl⟩ := exec_next_iff.1 h
  · obtain hsame | ⟨rfl, rfl⟩ := hdone.running_cases
    · exact .inl ⟨hsame, hdone.trapCause_eq⟩
    · exact .inr (.inl ⟨rfl, rfl, rfl⟩)
  · exact .inr (.inr ⟨rfl, c.code_range⟩)

/-- No instruction reads the status: from another one it does the same to the rest. -/
theorem exec_with_status {i : Instr} {s t : State} (h : exec i s = .next t) (r : Bool)
    (c : BitVec 8) :
    ∃ t' : State, exec i { s with running := r, trapCause := c } = .next t' ∧
      { t' with running := t.running, trapCause := t.trapCause } = t := by
  by_cases hhalt : i = .halt
  · obtain rfl := hhalt
    obtain rfl := Host.Outcome.next.inj ((exec_halt s).symm.trans h)
    exact ⟨_, exec_halt _, rfl⟩
  · obtain hdone | ⟨cause, hraise, rfl⟩ := exec_next_iff.1 h
    · exact ⟨_, (hdone.with_status hhalt r c).exec_eq, rfl⟩
    · exact ⟨_, (hraise.with_rest s.mem r c s.out).exec_eq, rfl⟩

theorem State.load_status {image : List Byte} {s t : State} (h : s.load image = .next t) :
    t.running = true ∧ t.trapCause = 0 := by
  obtain ⟨-, rfl⟩ := (State.load_next_iff image s t).1 h
  exact ⟨rfl, rfl⟩

/-- Settles O34: the writers, the readers, and the two commands. -/
theorem statusIsWrittenOnlyByHaltAndTraps : Obligations.StatusIsWrittenOnlyByHaltAndTraps :=
  ⟨fun _ _ _ => exec_status, fun _ _ _ r c h => exec_with_status h r c, fun _ => ⟨rfl, rfl⟩,
    fun _ _ _ => State.load_status⟩

/-! ### The memory -/

theorem exec_mem_eq {i : Instr} {s t : State} (hstore : ∀ k, i ≠ .store k)
    (h : exec i s = .next t) : t.mem = s.mem := by
  obtain hdone | ⟨c, -, rfl⟩ := exec_next_iff.1 h
  · obtain hsame | ⟨k, x, hi, -⟩ := hdone.mem_cases
    · exact hsame
    · exact absurd hi (hstore k)
  · exact State.mem_takeTrap s c

theorem exec_with_mem {i : Instr} {s t : State} (hload : ∀ k, i ≠ .load k)
    (hstore : ∀ k, i ≠ .store k) (h : exec i s = .next t) (m : Memory) :
    exec i { s with mem := m } = .next { t with mem := m } := by
  obtain hdone | ⟨c, hraise, rfl⟩ := exec_next_iff.1 h
  · exact (hdone.with_mem hload hstore m).exec_eq
  · exact (hraise.with_rest m s.running s.trapCause s.out).exec_eq

theorem State.readCell_eq_of_mem_eq {s t : State} (h : t.mem = s.mem) (j : Nat) :
    t.readCell j = s.readCell j := congrArg (Memory.read · j) h

theorem State.readCell_resetCommand (s : State) (j : Nat) : s.resetCommand.readCell j = 0 :=
  Memory.read_nil j

/-- Settles O35: the writer, the readers, and the two commands. -/
theorem onlyStoreWritesAndOnlyLoadReadsMemory :
    Obligations.OnlyStoreWritesAndOnlyLoadReadsMemory := by
  refine ⟨fun i s t hstore h => ?_, fun i s t m hload hstore h => exec_with_mem hload hstore h m,
    State.readCell_resetCommand, fun image s t j h => ?_⟩
  · have hmem := exec_mem_eq hstore h
    exact ⟨hmem, State.readCell_eq_of_mem_eq hmem⟩
  · obtain ⟨-, rfl⟩ := (State.load_next_iff image s t).1 h
    exact State.readCell_resetCommand _ j

/-! ### The stacks and `pc` -/

/-- Settles O37: what completes replaces the entries it needs; a trap leaves the stack. -/
theorem onlyTheTopOfTheOperandStackChanges : Obligations.OnlyTheTopOfTheOperandStackChanges := by
  intro i s t h
  obtain hdone | ⟨c, -, rfl⟩ := exec_next_iff.1 h
  · exact .inr hdone.ostack_eq
  · exact .inl ⟨State.ostack_takeTrap s c, c.code, rfl⟩

/-- Settles O38: CALL and RET where they complete; a trap leaves the call stack. -/
theorem onlyCallAndRetTouchTheCallStack : Obligations.OnlyCallAndRetTouchTheCallStack := by
  intro i s t h
  obtain hdone | ⟨c, -, rfl⟩ := exec_next_iff.1 h
  · obtain hsame | ⟨w, hi, -, hpush⟩ | hret := hdone.cstack_cases
    · exact .inl hsame
    · exact .inr (.inl ⟨w, hi, hpush⟩)
    · exact .inr (.inr hret)
  · exact .inl (State.cstack_takeTrap s c)

/-- Settles O39: what completes follows the table; otherwise it is a precise trap. -/
theorem pcFollowsTheTable : Obligations.PcFollowsTheTable := by
  intro i s t h
  obtain hdone | ⟨c, -, rfl⟩ := exec_next_iff.1 h
  · exact .inl hdone.pc_eq
  · exact .inr (State.takeTrap_eq_trapState c s)

end Sys2Proof.Machine
end

section
/-! O7 and O36: every step answers, and what it adds to the print port (10_state.md R42; 70_reset_and_hazards.md
R227). -/

namespace Sys2Proof.Machine

/-! ### Every step answers -/

theorem exec_total (i : Instr) (s : State) : ∃ t, exec i s = .next t := by
  obtain ⟨t, hdone⟩ | ⟨c, hraise⟩ := completes_or_raises i s
  · exact ⟨t, hdone.exec_eq⟩
  · exact ⟨_, hraise.exec_eq⟩

theorem State.fetchFailed_total (e : DecodeError) (s : State) : ∃ t, s.fetchFailed e = .next t := by
  cases e <;> exact ⟨_, rfl⟩

theorem step_total (s : State) : ∃ t, step s = .next t := by
  by_cases hactive : s.active = true
  · cases hfetch : s.fetch with
    | ok i => exact step_of_fetch_ok hactive hfetch ▸ exec_total i s
    | error e => exact step_of_fetch_error hactive hfetch ▸ State.fetchFailed_total e s
  · exact ⟨s, step_of_not_active hactive⟩

theorem stepsTo_total (s : State) (k : Nat) : ∃ t, StepsTo s k t := by
  induction k generalizing s with
  | zero => exact ⟨s, (stepsTo_zero_iff s s).2 rfl⟩
  | succ k ih =>
    obtain ⟨u, hstep⟩ := step_total s
    obtain ⟨t, hrun⟩ := ih u
    exact ⟨t, (stepsTo_succ_iff k s t).2 ⟨u, hstep, hrun⟩⟩

/-! ### The print port -/

/-- Settles O36: an idle step and a trap leave the port, and of the instructions only PRINT appends. -/
theorem onlyPrintAppendsToThePort : Obligations.OnlyPrintAppendsToThePort := by
  intro s t hstep
  obtain ⟨-, rfl⟩ | ⟨-, ⟨i, hfetch, hdone⟩ | ⟨c, rfl⟩⟩ := step_next_cases hstep
  · exact .inl rfl
  · obtain hsame | ⟨x, rest, rfl, hprint⟩ := hdone.out_cases
    · exact .inl hsame
    · exact .inr ⟨x, rest, hfetch, hprint⟩
  · exact .inl (State.out_takeTrap s c)

/-- Settles O7: a step answers a next state, and by O36 the port gains the one popped value or nothing. -/
theorem everyStepAnswersANextState : Obligations.EveryStepAnswersANextState := by
  intro s
  obtain ⟨t, hstep⟩ := step_total s
  obtain hsame | ⟨x, rest, -, -, hout, -⟩ := onlyPrintAppendsToThePort s t hstep
  · exact ⟨t, [], hstep, by rw [hsame, List.append_nil], Nat.zero_le 1⟩
  · exact ⟨t, [x], hstep, hout, Nat.le_refl 1⟩

end Sys2Proof.Machine
end

section
/-! O41: the canonical form leaves one memory for each reading (10_state.md R30; log 5). -/

namespace Sys2Proof.Machine

/-- A listed cell reads what its first entry holds. -/
theorem Memory.read_cons_self (j : Nat) (v : Word) (rest : Memory) :
    Memory.read ((j, v) :: rest) j = v := if_pos rfl

/-- A memory in canonical form from a cell on that reads 0 at every cell is empty. -/
theorem Memory.eq_nil_of_read_eq_zero {lo : Nat} {m : Memory} (h : Memory.wfFrom lo m = true)
    (hread : ∀ i, Memory.read m i = 0) : m = [] := by
  match m with
  | [] => rfl
  | (j, v) :: rest =>
    obtain ⟨-, -, hne, -⟩ := (Memory.wfFrom_cons_iff ..).1 h
    exact absurd ((Memory.read_cons_self j v rest).symm.trans (hread j)) hne

/-- The first cell of one memory is not below that of another which reads alike: there the other would
read 0. -/
theorem Memory.first_le_of_read_eq {lo lo' j j' : Nat} {v v' : Word} {rest rest' : Memory}
    (h : Memory.wfFrom lo ((j, v) :: rest) = true)
    (h' : Memory.wfFrom lo' ((j', v') :: rest') = true)
    (hread : ∀ i, Memory.read ((j, v) :: rest) i = Memory.read ((j', v') :: rest') i) :
    j' ≤ j := by
  obtain ⟨-, -, hne, -⟩ := (Memory.wfFrom_cons_iff ..).1 h
  obtain ⟨-, hrest'⟩ := (Memory.wfFrom_cons_iff ..).1 h'
  have hself : Memory.wfFrom j' ((j', v') :: rest') = true :=
    (Memory.wfFrom_cons_iff ..).2 ⟨Nat.le_refl j', hrest'⟩
  by_contra hlt
  have hzero := Memory.read_of_lt _ hself (Nat.not_le.1 hlt)
  exact hne ((Memory.read_cons_self j v rest).symm.trans ((hread j).trans hzero))

/-- Behind equal first entries the rest reads alike too. -/
theorem Memory.read_rest_eq {j : Nat} {v v' : Word} {rest rest' : Memory}
    (h : Memory.wfFrom (j + 1) rest = true) (h' : Memory.wfFrom (j + 1) rest' = true)
    (hread : ∀ i, Memory.read ((j, v) :: rest) i = Memory.read ((j, v') :: rest') i) (i : Nat) :
    Memory.read rest i = Memory.read rest' i := by
  by_cases hi : i = j
  · rw [Memory.read_of_lt rest h (by omega), Memory.read_of_lt rest' h' (by omega)]
  · have hji : j ≠ i := Ne.symm hi
    simpa [Memory.read, hji] using hread i

theorem Memory.eq_of_read_eq {lo : Nat} {m m' : Memory} (h : Memory.wfFrom lo m = true)
    (h' : Memory.wfFrom lo m' = true) (hread : ∀ i, Memory.read m i = Memory.read m' i) :
    m = m' := by
  induction m generalizing lo m' with
  | nil => exact (Memory.eq_nil_of_read_eq_zero h' fun i => (hread i).symm).symm
  | cons e rest ih =>
    obtain ⟨j, v⟩ := e
    match m' with
    | [] => exact Memory.eq_nil_of_read_eq_zero h hread
    | (j', v') :: rest' =>
      obtain rfl : j = j' := Nat.le_antisymm
        (Memory.first_le_of_read_eq h' h fun i => (hread i).symm)
        (Memory.first_le_of_read_eq h h' hread)
      obtain ⟨-, -, -, hrest⟩ := (Memory.wfFrom_cons_iff ..).1 h
      obtain ⟨-, -, -, hrest'⟩ := (Memory.wfFrom_cons_iff ..).1 h'
      obtain rfl : v = v' := by simpa only [Memory.read_cons_self] using hread j
      rw [ih hrest hrest' (Memory.read_rest_eq hrest hrest' hread)]

/-- Settles O41: by induction, the first entries agree and the rests read alike. -/
theorem canonicalMemoriesThatReadAlikeAreEqual :
    Obligations.CanonicalMemoriesThatReadAlikeAreEqual :=
  fun _ _ => Memory.eq_of_read_eq

end Sys2Proof.Machine
end

section
/-! O42: over a run a cell holds the most recent value stored to it (20_memory.md R61). -/

namespace Sys2Proof.Machine

/-! ### One step and one cell -/

/-- A step leaves the memory, or is a STORE that completes and writes its cell (R150). -/
theorem step_mem_cases {s t : State} (h : step s = .next t) :
    t.mem = s.mem ∨ ∃ i x, StoresTo s i x ∧ t.mem = Memory.write s.mem i x := by
  obtain ⟨-, rfl⟩ | ⟨hactive, ⟨i, hfetch, hdone⟩ | ⟨c, rfl⟩⟩ := step_next_cases h
  · exact .inl rfl
  · obtain hsame | ⟨k, x, rfl, hcell, htop, hwrite⟩ := hdone.mem_cases
    · exact .inl hsame
    · exact .inr ⟨u32 k, x, ⟨hactive, hcell, htop, k, hfetch, rfl⟩, hwrite⟩
  · exact .inl (State.mem_takeTrap s c)

theorem step_mem_wf {s t : State} (hwf : Memory.wf s.mem = true) (h : step s = .next t) :
    Memory.wf t.mem = true := by
  obtain hsame | ⟨i, x, ⟨-, hcell, -⟩, hwrite⟩ := step_mem_cases h
  · rwa [hsame]
  · rw [hwrite]
    exact Memory.write_wf hwf hcell

theorem stepsTo_mem_wf {k : Nat} {s t : State} (hwf : Memory.wf s.mem = true)
    (h : StepsTo s k t) : Memory.wf t.mem = true := by
  induction k generalizing s with
  | zero => rwa [← (stepsTo_zero_iff s t).1 h]
  | succ k ih =>
    obtain ⟨u, hstep, hrun⟩ := (stepsTo_succ_iff k s t).1 h
    exact ih (step_mem_wf hwf hstep) hrun

/-- After a STORE to it the cell reads the value stored. -/
theorem readCell_of_storesTo {s t : State} {i : Nat} {x : Word} (hwf : Memory.wf s.mem = true)
    (hstore : StoresTo s i x) (h : step s = .next t) : t.readCell i = x := by
  obtain ⟨hactive, hcell, htop, k, hfetch, rfl⟩ := hstore
  obtain ⟨rest, hstack⟩ := List.head?_eq_some_iff.1 htop
  have hexec := (step_of_fetch_ok hactive hfetch).trans (exec_store_of_cons hcell hstack)
  obtain rfl := Host.Outcome.next.inj (hexec.symm.trans h)
  exact (Memory.read_write _ _ x hwf).trans (if_pos rfl)

/-- After a step that stores nothing to it the cell reads as before. -/
theorem readCell_of_not_storesTo {s t : State} {i : Nat} (hwf : Memory.wf s.mem = true)
    (hnone : ∀ x, ¬ StoresTo s i x) (h : step s = .next t) : t.readCell i = s.readCell i := by
  obtain hsame | ⟨j, x, hstore, hwrite⟩ := step_mem_cases h
  · exact State.readCell_eq_of_mem_eq hsame i
  · have hne : i ≠ j := fun hij => hnone x (hij ▸ hstore)
    rw [State.readCell, hwrite, Memory.read_write _ _ _ hwf, if_neg hne, State.readCell]

/-! ### The run -/

/-- No step from `j` on and before `k` of the run from `s` stores to cell `i`. -/
def NoStoreBetween (s : State) (i j k : Nat) : Prop :=
  ∀ (l : Nat) (v : State) (y : Word), j ≤ l → l < k → StepsTo s l v → ¬ StoresTo v i y

/-- A step that stores nothing to the cell prolongs such a stretch. -/
theorem NoStoreBetween.succ {s u : State} {i j k : Nat} (h : NoStoreBetween s i j k)
    (hrun : StepsTo s k u) (hnone : ∀ x, ¬ StoresTo u i x) : NoStoreBetween s i j (k + 1) := by
  intro l v y hjl hlk hv
  obtain hlt | rfl := Nat.lt_succ_iff_lt_or_eq.1 hlk
  · exact h l v y hjl hlt hv
  · exact stepsTo_unique hv hrun ▸ hnone y

/-- By induction on the run, with its last step apart: a STORE there is the most recent one; any other
step leaves both the reading and the most recent STORE. -/
theorem readCell_of_stepsTo {k : Nat} {s t : State} (i : Nat) (hwf : Memory.wf s.mem = true)
    (h : StepsTo s k t) :
    (t.readCell i = s.readCell i ∧ NoStoreBetween s i 0 k) ∨
    ∃ j u x, j < k ∧ StepsTo s j u ∧ StoresTo u i x ∧ t.readCell i = x ∧
      NoStoreBetween s i (j + 1) k := by
  induction k generalizing t with
  | zero =>
    obtain rfl := (stepsTo_zero_iff s t).1 h
    exact .inl ⟨rfl, fun l _ _ _ hl => absurd hl (Nat.not_lt_zero l)⟩
  | succ k ih =>
    obtain ⟨u, hrun, hlast⟩ := (stepsTo_add_iff k 1 s t).1 h
    have hstep : step u = .next t := by simpa [stepsTo_succ_iff, stepsTo_zero_iff] using hlast
    have hwfu := stepsTo_mem_wf hwf hrun
    by_cases hstore : ∃ x, StoresTo u i x
    · obtain ⟨x, hx⟩ := hstore
      exact .inr ⟨k, u, x, Nat.lt_succ_self k, hrun, hx, readCell_of_storesTo hwfu hx hstep,
        fun l _ _ hkl hl => absurd hl (Nat.not_lt.2 hkl)⟩
    · have hnone := not_exists.1 hstore
      have hkeep := readCell_of_not_storesTo hwfu hnone hstep
      obtain ⟨hsame, hno⟩ | ⟨j, v, x, hjk, hv, hx, hread, hno⟩ := ih hrun
      · exact .inl ⟨hkeep.trans hsame, hno.succ hrun hnone⟩
      · exact .inr ⟨j, v, x, Nat.lt_succ_of_lt hjk, hv, hx, hkeep.trans hread,
          hno.succ hrun hnone⟩

/-- Settles O42: the two stretches without a STORE are those of the statement. -/
theorem cellHoldsTheMostRecentStore : Obligations.CellHoldsTheMostRecentStore := by
  intro k s t i hwf hrun
  obtain ⟨hsame, hno⟩ | ⟨j, u, x, hjk, hu, hx, hread, hno⟩ := readCell_of_stepsTo i hwf hrun
  · exact .inl ⟨hsame, fun l v y hl => hno l v y (Nat.zero_le l) hl⟩
  · exact .inr ⟨j, u, x, hjk, hu, hx, hread, hno⟩

end Sys2Proof.Machine
end

section
/-! O43, O46 to O48: the state after reset and LOAD, and its invariants (10_state.md R34, R35; 70_reset_and_hazards.md
R210, R211). -/

namespace Sys2Proof.Machine

/-- Settles O43: the literal's fields, and the empty memory, which reads 0 everywhere. -/
theorem resetStateHasTheResetValues : Obligations.ResetStateHasTheResetValues :=
  ⟨rfl, rfl, rfl, rfl, rfl, Memory.read_nil, rfl, rfl⟩

/-- Settles O46: the length check fails. -/
theorem loadRefusesALongerImage : Obligations.LoadRefusesALongerImage := by
  intro image s hlen
  have hrefused : ¬ imageLenWf image.length = true := fun haccepted =>
    absurd ((imageLenWf_iff _).1 haccepted) (Nat.not_le.2 hlen)
  exact if_neg hrefused

/-! ### The invariants -/

theorem capacityFits_zero (c : Capacity) : capacityFits c 0 := by
  cases c with
  | unbounded => trivial
  | finite n => exact Nat.zero_le n

/-- RESET leaves nothing of a state but the length of its image for the invariants to ask of. -/
theorem State.inv_resetCommand {s : State} (h : s.codeLen ≤ 4294967295) : s.resetCommand.Inv where
  codeLen_le := h
  pc_le := Nat.zero_le _
  cstack_le _ he := absurd he List.not_mem_nil
  ostack_fits := capacityFits_zero _
  cstack_fits := capacityFits_zero _
  running_no_trap _ := rfl
  trapCause_le := Nat.zero_le _
  mem_wf := Memory.wf_nil

/-- Settles O47: State.reset is itself after RESET, and its image is empty. -/
theorem invariantsHoldAtReset : Obligations.InvariantsHoldAtReset :=
  State.inv_resetCommand (s := State.reset) (Nat.zero_le _)

/-- Settles O48: LOAD is RESET with an image whose length it has checked. -/
theorem invariantsHoldAfterLoadAndReset : Obligations.InvariantsHoldAfterLoadAndReset := by
  refine ⟨fun image s t h => ?_, fun _ => State.inv_resetCommand⟩
  obtain ⟨hlen, rfl⟩ := (State.load_next_iff image s t).1 h
  exact State.inv_resetCommand ((imageLenWf_iff _).1 hlen)

end Sys2Proof.Machine
end

section
/-! O50: the post-operand pc of a fetched instruction is exact (10_state.md R23). -/

namespace Sys2Proof.Machine

/-- A post-operand pc within an image of legal length is below 2^32, so the sum does not wrap. -/
theorem State.toNat_pc_add_size {s : State} {i : Instr} (hlen : s.codeLen ≤ maxCodeLen)
    (hfit : u32 s.pc + i.size ≤ s.codeLen) :
    u32 (s.pc + BitVec.ofNat 32 i.size) = u32 s.pc + i.size := by
  have hlt : u32 s.pc + i.size < 2 ^ 32 := by
    unfold maxCodeLen at hlen
    omega
  simp only [u32] at hlt ⊢
  rw [BitVec.toNat_add, BitVec.toNat_ofNat, Nat.add_mod_mod, Nat.mod_eq_of_lt hlt]

/-- Settles O50: the fetch has all the instruction's bytes inside the image. -/
theorem pcNeverWraps : Obligations.PcNeverWraps := by
  intro s i hinv _ hfetch
  have hfit := State.pc_add_size_le_of_fetch hfetch
  exact ⟨hfit, State.toNat_pc_add_size hinv.codeLen_le hfit⟩

end Sys2Proof.Machine
end

section
/-! O49: every step keeps the invariants (10_state.md R34). One lemma per clause says that an instruction that
completes keeps it; a trap keeps them all. -/

namespace Sys2Proof.Machine

/-! ### Capacities -/

theorem capacityFits_of_le {c : Capacity} {m n : Nat} (h : capacityFits c n) (hle : m ≤ n) :
    capacityFits c m := by
  cases c with
  | unbounded => trivial
  | finite k => exact hle.trans h

/-- A stack within its capacity that is not full has room for one entry more. -/
theorem capacityFits_succ {c : Capacity} {n : Nat} (h : capacityFits c n)
    (hroom : capacityFull c n = false) : capacityFits c (n + 1) := by
  cases c with
  | unbounded => trivial
  | finite k =>
    have hne : n ≠ k := by simpa [capacityFull] using hroom
    exact Nat.lt_of_le_of_ne h hne

/-! ### A trap -/

theorem State.Inv.takeTrap {s : State} (h : s.Inv) (c : TrapCause) : (s.takeTrap c).Inv where
  codeLen_le := h.codeLen_le
  pc_le := h.pc_le
  cstack_le := h.cstack_le
  ostack_fits := h.ostack_fits
  cstack_fits := h.cstack_fits
  running_no_trap hrunning := absurd hrunning Bool.false_ne_true
  trapCause_le := c.code_range.2
  mem_wf := h.mem_wf

/-! ### An instruction that completes -/

/-- The table of R24 stays within the image: the targets are checked, the return addresses are within by
the invariants, and the post-operand pc does not wrap. -/
theorem pcAfter_le {i : Instr} {s : State} (hinv : s.Inv) (hfit : u32 s.pc + i.size ≤ s.codeLen)
    (hrange : operandInRange i s) : u32 (pcAfter i s) ≤ s.codeLen := by
  have hnext : u32 (s.pc + BitVec.ofNat 32 i.size) ≤ s.codeLen :=
    (State.toNat_pc_add_size hinv.codeLen_le hfit).trans_le hfit
  cases i with
  | push | store | load | pop | dup | add | sub | mul | div | cmp | print | halt => exact hnext
  | jmp t | call t => exact Nat.le_of_lt hrange
  | jz t =>
    simp only [pcAfter]
    split
    · exact Nat.le_of_lt hrange
    · exact hnext
  | jnz t =>
    simp only [pcAfter]
    split
    · exact hnext
    · exact Nat.le_of_lt hrange
  | ret =>
    simp only [pcAfter]
    cases hcstack : s.cstack with
    | nil => exact Nat.zero_le _
    | cons a rest => exact hinv.cstack_le a (by simp [hcstack])

section
variable {i : Instr} {s t : State} (h : Completes i s t) (hinv : s.Inv)
include h hinv

theorem Completes.cstack_le (hfit : u32 s.pc + i.size ≤ s.codeLen) :
    ∀ e ∈ t.cstack, u32 e ≤ s.codeLen := by
  obtain hsame | ⟨w, rfl, -, hpush⟩ | ⟨-, a, hpop, -⟩ := h.cstack_cases
  · rw [hsame]
    exact hinv.cstack_le
  · rw [hpush, List.forall_mem_cons]
    have hexact := State.toNat_pc_add_size hinv.codeLen_le hfit
    exact ⟨hexact.trans_le hfit, hinv.cstack_le⟩
  · intro e he
    exact hinv.cstack_le e (hpop ▸ List.mem_cons_of_mem a he)

theorem Completes.ostack_fits : capacityFits s.params.ostackDepth t.ostack.length := by
  obtain ⟨hdepth, new, hnew, hostack⟩ := h.ostack_eq
  have hlen : t.ostack.length = entriesLeft i + (s.ostack.length - entriesNeeded i) := by
    rw [hostack, List.length_append, hnew, List.length_drop]
  by_cases hgrow : entriesNeeded i < entriesLeft i
  · have hmore := entriesLeft_le i
    exact capacityFits_of_le (capacityFits_succ hinv.ostack_fits (h.room hgrow)) (by omega)
  · exact capacityFits_of_le hinv.ostack_fits (by omega)

theorem Completes.cstack_fits : capacityFits s.params.cstackDepth t.cstack.length := by
  obtain hsame | ⟨w, -, hroom, hpush⟩ | ⟨-, a, hpop, -⟩ := h.cstack_cases
  · rw [hsame]
    exact hinv.cstack_fits
  · rw [hpush]
    exact capacityFits_succ hinv.cstack_fits hroom
  · refine capacityFits_of_le hinv.cstack_fits ?_
    rw [hpop]
    exact Nat.le_succ _

theorem Completes.running_no_trap (hrunning : t.running = true) : t.trapCause = 0 := by
  rw [h.trapCause_eq]
  obtain hsame | ⟨-, rfl⟩ := h.running_cases
  · exact hinv.running_no_trap (hsame ▸ hrunning)
  · exact absurd hrunning Bool.false_ne_true

theorem Completes.mem_wf : Memory.wf t.mem = true := by
  obtain hsame | ⟨k, x, -, hcell, -, hwrite⟩ := h.mem_cases
  · rw [hsame]
    exact hinv.mem_wf
  · rw [hwrite]
    exact Memory.write_wf hinv.mem_wf hcell

/-- An instruction that completes within the image keeps every clause. -/
theorem Completes.inv (hfit : u32 s.pc + i.size ≤ s.codeLen) : t.Inv := by
  have hlen : t.codeLen = s.codeLen := congrArg List.length h.code_eq
  exact {
    codeLen_le := hlen ▸ hinv.codeLen_le
    pc_le := by
      rw [h.pc_eq, hlen]
      exact pcAfter_le hinv hfit h.operandInRange
    cstack_le := hlen ▸ h.cstack_le hinv hfit
    ostack_fits := h.params_eq ▸ h.ostack_fits hinv
    cstack_fits := h.params_eq ▸ h.cstack_fits hinv
    running_no_trap := h.running_no_trap hinv
    trapCause_le := h.trapCause_eq ▸ hinv.trapCause_le
    mem_wf := h.mem_wf hinv }

end

/-- Settles O49: an idle step changes nothing, a fetched instruction completes within the image, and a
trap writes only the status. -/
theorem everyStepKeepsTheInvariants : Obligations.EveryStepKeepsTheInvariants := by
  intro s t hinv hstep
  obtain ⟨-, rfl⟩ | ⟨-, ⟨i, hfetch, hdone⟩ | ⟨c, rfl⟩⟩ := step_next_cases hstep
  · exact hinv
  · exact hdone.inv hinv (State.pc_add_size_le_of_fetch hfetch)
  · exact hinv.takeTrap c

end Sys2Proof.Machine
end

section
/-! O6, O51, O55: a core that is not active, and what the host reads of it (10_state.md R41, R43; 30_encoding.md
R86). -/

namespace Sys2Proof.Machine

theorem State.not_active_of_codeLen_le {s : State} (h : s.codeLen ≤ u32 s.pc) : s.active ≠ true := by
  intro hactive
  obtain ⟨-, hlt⟩ := (State.active_iff s).1 hactive
  exact absurd h (Nat.not_le.2 hlt)

/-- Settles O6: either way the core is not active, so its step is itself, any number of times. -/
theorem stoppedCoreKeepsItsState : Obligations.StoppedCoreKeepsItsState := by
  intro s k hstopped
  have hidle : s.active ≠ true :=
    hstopped.elim State.not_active_of_not_running State.not_active_of_codeLen_le
  exact ⟨step_of_not_active hidle, stepsTo_self_of_step (step_of_not_active hidle) k⟩

/-! ### The end kind -/

theorem State.endKind_eq_none_iff (s : State) : s.endKind = none ↔ s.active = true := by
  unfold State.endKind
  split
  next hactive => simp [hactive]
  next hidle =>
    split
    · simp [hidle]
    · split <;> simp [hidle]

section
variable {s : State} (hidle : s.active = false)
include hidle

theorem State.endKind_of_running (hrunning : s.running = true) : s.endKind = some .ended := by
  simp [State.endKind, hidle, hrunning]

theorem State.endKind_of_halted (hstopped : s.running = false) (hcause : s.trapCause = 0) :
    s.endKind = some .halted := by
  simp [State.endKind, hidle, hstopped, hcause]

theorem State.endKind_of_trapped (hstopped : s.running = false) (hcause : s.trapCause ≠ 0) :
    s.endKind = some (.trapped s.trapCause) := by
  unfold State.endKind
  rw [if_neg (by simp [hidle]), if_neg (by simp [hstopped]), if_neg hcause]

end

/-- Settles O51: by `running` and `trap_cause`; a running core that is not active is at `N`, since the
invariants keep `pc` from passing it. -/
theorem stoppedCoreHasOneEndKind : Obligations.StoppedCoreHasOneEndKind := by
  intro s hinv hidle
  cases hrunning : s.running with
  | false =>
    by_cases hcause : s.trapCause = 0
    · exact .inl ⟨rfl, hcause, State.endKind_of_halted hidle hrunning hcause⟩
    · exact .inr (.inl ⟨rfl, hcause, State.endKind_of_trapped hidle hrunning hcause⟩)
  | true =>
    have hend : s.codeLen ≤ u32 s.pc := by
      refine Nat.not_lt.1 fun hlt => ?_
      rw [(State.active_iff s).2 ⟨hrunning, hlt⟩] at hidle
      cases hidle
    exact .inr (.inr ⟨rfl, Nat.le_antisymm hinv.pc_le hend, State.endKind_of_running hidle hrunning⟩)

/-- Settles O55: by whether the operand stack has a top. -/
theorem resultIsTheTopOrZero : Obligations.ResultIsTheTopOrZero := by
  refine fun s => ⟨fun x rest hstack => ?_, fun hstack => ?_⟩ <;> rw [State.result, hstack]

end Sys2Proof.Machine
end

section
/-! O52 and O53: the RUN command answers by the state that its fuel of steps reaches (70_reset_and_hazards.md R225,
R226). -/

namespace Sys2Proof.Machine

/-- What RUN answers for the state `t` in which its fuel left the core (R226, D19). -/
def State.runAnswer (t : State) : Host.Outcome State Fault Refusal :=
  match t.endKind with
  | some .halted | some .ended => .next t
  | some (.trapped c) => .fault (.trapped c)
  | none => .refused .outOfFuel

/-- A core that has come to an end answers at once, whatever the fuel. -/
theorem runCommand_of_not_active {s : State} (hidle : s.active ≠ true) (fuel : Nat) :
    runCommand fuel s = s.runAnswer := by
  unfold State.runAnswer runCommand
  cases hkind : s.endKind with
  | none => exact absurd ((State.endKind_eq_none_iff s).1 hkind) hidle
  | some kind => cases kind <;> rfl

theorem runCommand_zero_of_active {s : State} (hactive : s.active = true) :
    runCommand 0 s = s.runAnswer := by
  have hnone := (State.endKind_eq_none_iff s).2 hactive
  unfold runCommand
  simp only [hnone, State.runAnswer]

/-- RUN of an active core is a step and RUN with the fuel left. -/
theorem runCommand_succ_of_active {s u : State} (hactive : s.active = true)
    (hstep : step s = .next u) (k : Nat) : runCommand (k + 1) s = runCommand k u := by
  have hnone := (State.endKind_eq_none_iff s).2 hactive
  rw [runCommand]
  simp only [hnone, hstep]

/-- RUN answers what the state after `k` steps says: by induction on the fuel, for an active core step
by step, and for another at once, since its steps keep it. -/
theorem runCommand_of_stepsTo {k : Nat} {s t : State} (h : StepsTo s k t) :
    runCommand k s = t.runAnswer := by
  induction k generalizing s with
  | zero =>
    obtain rfl := (stepsTo_zero_iff s t).1 h
    by_cases hactive : s.active = true
    · exact runCommand_zero_of_active hactive
    · exact runCommand_of_not_active hactive 0
  | succ k ih =>
    by_cases hactive : s.active = true
    · obtain ⟨u, hstep, hrun⟩ := (stepsTo_succ_iff k s t).1 h
      exact (runCommand_succ_of_active hactive hstep k).trans (ih hrun)
    · have hself := stepsTo_self_of_step (step_of_not_active hactive) (k + 1)
      obtain rfl := stepsTo_unique h hself
      exact runCommand_of_not_active hactive (k + 1)

section
variable (t : State)

theorem State.runAnswer_next_iff (u : State) :
    t.runAnswer = .next u ↔ t = u ∧ (u.endKind = some .halted ∨ u.endKind = some .ended) := by
  have hown : (t = u ∧ (u.endKind = some .halted ∨ u.endKind = some .ended)) ↔
      t = u ∧ (t.endKind = some .halted ∨ t.endKind = some .ended) :=
    and_congr_right (by rintro rfl; rfl)
  rw [hown]
  unfold State.runAnswer
  split <;> next hend => simp [hend]

theorem State.runAnswer_fault_iff (c : BitVec 8) :
    t.runAnswer = .fault (.trapped c) ↔ t.endKind = some (.trapped c) := by
  unfold State.runAnswer
  split <;> next hend => simp [hend]

theorem State.runAnswer_refused_iff (r : Refusal) :
    t.runAnswer = .refused r ↔ r = .outOfFuel ∧ t.active = true := by
  rw [← State.endKind_eq_none_iff, eq_comm (a := r)]
  unfold State.runAnswer
  split <;> next hend => simp [hend]

end

/-- The fault of RUN is the trap of the state its fuel reaches. -/
theorem runCommand_fault_iff (k : Nat) (s : State) (c : BitVec 8) :
    runCommand k s = .fault (.trapped c) ↔
      ∃ t, StepsTo s k t ∧ t.endKind = some (.trapped c) := by
  obtain ⟨t, hrun⟩ := stepsTo_total s k
  rw [runCommand_of_stepsTo hrun, State.runAnswer_fault_iff]
  constructor
  · exact fun hend => ⟨t, hrun, hend⟩
  · rintro ⟨u, hu, hend⟩
    exact stepsTo_unique hu hrun ▸ hend

/-- Settles O52: there is exactly one state after that many steps, and its answer is RUN's. -/
theorem runCommandAnswersTheEndOfTheRun : Obligations.RunCommandAnswersTheEndOfTheRun := by
  intro fuel s
  refine ⟨fun u => ?_, runCommand_fault_iff fuel s, fun r => ?_⟩
  all_goals obtain ⟨t, hrun⟩ := stepsTo_total s fuel
  · rw [runCommand_of_stepsTo hrun, State.runAnswer_next_iff]
    constructor
    · rintro ⟨rfl, hend⟩
      exact ⟨hrun, hend⟩
    · rintro ⟨hu, hend⟩
      exact ⟨stepsTo_unique hrun hu, hend⟩
  · rw [runCommand_of_stepsTo hrun, State.runAnswer_refused_iff]
    constructor
    · rintro ⟨hr, hactive⟩
      exact ⟨hr, t, hrun, hactive⟩
    · rintro ⟨hr, u, hu, hactive⟩
      exact ⟨hr, stepsTo_unique hu hrun ▸ hactive⟩

/-- Settles O53: RUN faults under some fuel exactly where that many steps reach a trap. -/
theorem safeRunsAreThoseThatNeverFault : Obligations.SafeRunsAreThoseThatNeverFault := by
  intro s
  constructor
  · intro hsafe fuel c hfault
    obtain ⟨t, hrun, hend⟩ := (runCommand_fault_iff fuel s c).1 hfault
    exact hsafe fuel t hrun c hend
  · intro hnever k t hrun c hend
    exact hnever k c ((runCommand_fault_iff k s c).2 ⟨t, hrun, hend⟩)

end Sys2Proof.Machine
end

section
/-! O54: a run does not read the print port, so after RESET it repeats (70_reset_and_hazards.md R214). -/

namespace Sys2Proof.Machine

/-- From another print history a step does the same, and appends the same events. -/
theorem step_with_out {s t : State} (h : step s = .next t) :
    ∃ ev, t.out = s.out ++ ev ∧
      ∀ o, step { s with out := o } = .next { t with out := o ++ ev } := by
  by_cases hactive : s.active = true
  · cases hfetch : s.fetch with
    | ok i =>
      rw [step_of_fetch_ok hactive hfetch] at h
      have hsame (o : List Word) : step { s with out := o } = exec i { s with out := o } :=
        step_of_fetch_ok (s := { s with out := o }) hactive hfetch
      obtain hdone | ⟨c, hraise, rfl⟩ := exec_next_iff.1 h
      · obtain ⟨ev, hout, hwith⟩ := hdone.with_out
        exact ⟨ev, hout, fun o => (hsame o).trans (hwith o).exec_eq⟩
      · refine ⟨[], (List.append_nil _).symm, fun o => ?_⟩
        rw [hsame, List.append_nil]
        exact (hraise.with_rest s.mem s.running s.trapCause o).exec_eq
    | error e =>
      rw [step_of_fetch_error hactive hfetch] at h
      refine ⟨[], ?_, fun o => ?_⟩
      · cases e <;> cases h <;> exact (List.append_nil _).symm
      · rw [step_of_fetch_error (s := { s with out := o }) hactive hfetch, List.append_nil]
        cases e <;> cases h <;> rfl
  · obtain rfl := Host.Outcome.next.inj ((step_of_not_active hactive).symm.trans h)
    refine ⟨[], (List.append_nil _).symm, fun o => ?_⟩
    rw [List.append_nil]
    exact step_of_not_active (s := { s with out := o }) hactive

theorem stepsTo_with_out {k : Nat} {s t : State} (h : StepsTo s k t) :
    ∃ ev, t.out = s.out ++ ev ∧
      ∀ o, StepsTo { s with out := o } k { t with out := o ++ ev } := by
  induction k generalizing s with
  | zero =>
    obtain rfl := (stepsTo_zero_iff s t).1 h
    refine ⟨[], (List.append_nil _).symm, fun o => (stepsTo_zero_iff _ _).2 ?_⟩
    rw [List.append_nil]
  | succ k ih =>
    obtain ⟨u, hstep, hrun⟩ := (stepsTo_succ_iff k s t).1 h
    obtain ⟨ev, hout, hstepo⟩ := step_with_out hstep
    obtain ⟨ev', hout', hruno⟩ := ih hrun
    refine ⟨ev ++ ev', by rw [hout', hout, List.append_assoc], fun o => ?_⟩
    rw [← List.append_assoc]
    exact (stepsTo_succ_iff k _ _).2 ⟨_, hstepo o, hruno (o ++ ev)⟩

/-- RESET leaves of a state its image, its parameters and its print history. -/
theorem State.resetCommand_eq_of_same {s old : State} (hcode : old.code = s.code)
    (hparams : old.params = s.params) :
    old.resetCommand = { s.resetCommand with out := old.out } := by
  rw [resetCommandReinitialises, hcode, hparams]
  rfl

/-- Settles O54: LOAD of its own image is RESET, RESET of the other state differs only in the print
history, and a run does not read that. -/
theorem runsAfterResetRepeatRunsAfterLoad : Obligations.RunsAfterResetRepeatRunsAfterLoad := by
  intro k s l t hload hrun old hcode hparams
  obtain ⟨-, rfl⟩ := (State.load_next_iff s.code s l).1 hload
  obtain ⟨ev, hout, hwith⟩ := stepsTo_with_out hrun
  refine ⟨ev, hout, ?_⟩
  rw [State.resetCommand_eq_of_same hcode hparams]
  exact hwith old.out

end Sys2Proof.Machine
end
